-- ==== Sys2Proof/Word.lean ====
section
/-! DEFINITION. The words of the SCU: the widths the spec uses (00_scope.md R10: every value is unsigned, bit 0 least
significant; R11: bitwise operators are those of `BitVec`, offsets are computed on naturals). -/

namespace Sys2Proof

/-- One byte of a buffer, one byte register. -/
abbrev Byte := BitVec 8

/-- A 16-bit field: message type, section length, attribute type, port. -/
abbrev Half := BitVec 16

/-- A 32-bit field: cookie, IPv4 address, Fingerprint, CRC; also the data of the host port (R21). -/
abbrev Word := BitVec 32

/-- A 17-bit offset register (R22; MBSIZE is above 2^16). -/
abbrev Offset := BitVec 17

/-- A byte space as a reader sees it: what each offset reads as (R12 `S[a]`). -/
abbrev Space := Nat → Byte

/-- A transaction identifier, "exactly 12 opaque bytes" (R17, R37). -/
abbrev Tid := Vector Byte 12

end Sys2Proof
end

