-- ==== Sys2Proof/Syntax.lean ====
section
/-! DEFINITION. The instructions: one constructor per row of spec/opcode_table.json (30_encoding.md R116).
An operand of a constructor is what its row's mask leaves open: the bits outside the mask IN THEIR PLACE in the word
(R87, R91: class and method are held as bit patterns in message-type position, never shifted). -/

namespace Sys2Proof

/-- The 27 rows of the table: 11 of format CMD8, 11 of MSGTYPE16, 5 of ATTRTYPE16. -/
inductive Instr where
  -- CMD8: the value written to register CMD (R110)
  | nop
  | reset
  | clrErr
  | msgEnd
  | hdrBuild
  | hdrEnc
  | hdrDec
  | attrEnc
  | attrDec
  | crcRun
  /-- R111, R235: every other command code. -/
  | cmdUndefined (op : Byte)
  -- MSGTYPE16: the message type of a received header (R87 to R90)
  /-- Bits 15 and 14 zero (R142); `rest` is bits 13 to 0. -/
  | mtLeadingZero (rest : Half)
  /-- Class pattern 0x0000 (R88); `rest` is the word without bits 8 and 4. -/
  | classRequest (rest : Half)
  | classIndication (rest : Half)
  | classSuccessResponse (rest : Half)
  | classErrorResponse (rest : Half)
  /-- Method pattern 0x0001 (R89); `cls` is bits 8 and 4. -/
  | methodBinding (cls : Half)
  | bindingRequest
  | bindingIndication
  | bindingSuccessResponse
  | bindingErrorResponse
  /-- Every message type that is none of the four accepted ones. -/
  | mtUnrecognised (mt : Half)
  -- ATTRTYPE16: the type code of a received attribute (R100)
  | mappedAddress
  | xorMappedAddress
  | software
  | fingerprint
  /-- Every type code that is none of the four defined ones (R107). -/
  | generic (t : Half)
  deriving DecidableEq, Repr

end Sys2Proof
end

