-- ==== Sys2Proof/WellFormed.lean ====
section
/-! DEFINITION. Which instruction terms are instructions: an operand holds only the bits its row leaves open, and a
default row stands only for words that no full row of its format takes (30_encoding.md R116). -/

namespace Sys2Proof

/-- R111: the undefined command codes, by their ranges. -/
def undefinedCode (op : Byte) : Bool :=
  (0x04#8 ≤ op && op ≤ 0x0F#8) || (0x13#8 ≤ op && op ≤ 0x1F#8) || (0x22#8 ≤ op && op ≤ 0x2F#8) || 0x31#8 ≤ op

/-- The well-formedness check. -/
def Instr.wf : Instr → Bool
  | .nop => true
  | .reset => true
  | .clrErr => true
  | .msgEnd => true
  | .hdrBuild => true
  | .hdrEnc => true
  | .hdrDec => true
  | .attrEnc => true
  | .attrDec => true
  | .crcRun => true
  | .cmdUndefined op => undefinedCode op
  | .mtLeadingZero rest => rest &&& 0xC000#16 == 0#16
  | .classRequest rest => rest &&& 0x0110#16 == 0#16
  | .classIndication rest => rest &&& 0x0110#16 == 0#16
  | .classSuccessResponse rest => rest &&& 0x0110#16 == 0#16
  | .classErrorResponse rest => rest &&& 0x0110#16 == 0#16
  | .methodBinding cls => cls &&& 0xFEEF#16 == 0#16
  | .bindingRequest => true
  | .bindingIndication => true
  | .bindingSuccessResponse => true
  | .bindingErrorResponse => true
  | .mtUnrecognised mt => mt != 0x0001#16 && mt != 0x0011#16 && mt != 0x0101#16 && mt != 0x0111#16
  | .mappedAddress => true
  | .xorMappedAddress => true
  | .software => true
  | .fingerprint => true
  | .generic t => t != 0x0001#16 && t != 0x0020#16 && t != 0x8022#16 && t != 0x8028#16

end Sys2Proof
end

