-- ==== Sys2Proof/Decode.lean ====
section
/-! DEFINITION. The decoder, total on any bytes and rejecting by name, and the encoder, both from the tables of
30_encoding.md (R87 to R90, R100, R110) and spec/opcode_table.json.

The SCU reads a word at one of six places (`Slot`): the command code of a CMD write; the message type of a received
header, which it also reads by its parts (leading bits, class, method: R91, R142, R144); the type code of a received
attribute. The place says which rows of the table are looked at. -/

namespace Sys2Proof

/-! ## The constants of the encodings (00_scope.md R8) -/

def classMask : Half := 0x0110#16
def methodMask : Half := 0xFEEF#16
def leadingMask : Half := 0xC000#16
def bindingPattern : Half := 0x0001#16

def typeMappedAddress : Half := 0x0001#16
def typeXorMappedAddress : Half := 0x0020#16
def typeSoftware : Half := 0x8022#16
def typeFingerprint : Half := 0x8028#16

/-! ## Where a word stands, and why a word is rejected -/

/-- Where the SCU reads a word. -/
inductive Slot where
  | command      -- bits 7 to 0 of a write to CMD (R109)
  | msgType      -- the whole message type of a received header
  | leadingBits  -- its bits 15 and 14
  | msgClass     -- its bits 8 and 4
  | method       -- its other bits
  | attrType     -- the type code of a received attribute
  deriving DecidableEq, Repr

/-- Why bytes are no instruction at a place. -/
inductive Reject where
  | truncated           -- fewer bytes than the word has
  | leadingBitsSet      -- R103: bits 15 and 14 of a message type are not zero
  | methodUnrecognised  -- R104: the method bits are not Binding's
  deriving DecidableEq, Repr

/-! ## The tables -/

/-- R110. -/
def commandRows : List (Byte × Instr) :=
  [(0x00#8, .nop), (0x01#8, .reset), (0x02#8, .clrErr), (0x03#8, .msgEnd), (0x10#8, .hdrBuild), (0x11#8, .hdrEnc),
   (0x12#8, .hdrDec), (0x20#8, .attrEnc), (0x21#8, .attrDec), (0x30#8, .crcRun)]

/-- R90: the four accepted message types. -/
def msgTypeRows : List (Half × Instr) :=
  [(0x0001#16, .bindingRequest), (0x0011#16, .bindingIndication), (0x0101#16, .bindingSuccessResponse),
   (0x0111#16, .bindingErrorResponse)]

/-- R100: the four defined attribute types. -/
def attrTypeRows : List (Half × Instr) :=
  [(typeMappedAddress, .mappedAddress), (typeXorMappedAddress, .xorMappedAddress), (typeSoftware, .software),
   (typeFingerprint, .fingerprint)]

/-! ## The decoders of one word -/

/-- R110, R111: every command code has an instruction. -/
def decodeCmd (op : Byte) : Instr := (commandRows.lookup op).getD (.cmdUndefined op)

/-- R90, R116: the whole message type. -/
def decodeMsgType (mt : Half) : Instr := (msgTypeRows.lookup mt).getD (.mtUnrecognised mt)

/-- R100, R107: every attribute type has an instruction. -/
def decodeAttrType (t : Half) : Instr := (attrTypeRows.lookup t).getD (.generic t)

/-- R142. -/
def decodeLeading (mt : Half) : Except Reject Instr :=
  if mt &&& leadingMask = 0#16 then .ok (.mtLeadingZero mt) else .error .leadingBitsSet

/-- R88: the class pattern, and the rest of the word as operand. -/
def decodeClass (mt : Half) : Instr :=
  let c := mt &&& classMask
  let rest := mt &&& methodMask
  if c = 0x0000#16 then .classRequest rest
  else if c = 0x0010#16 then .classIndication rest
  else if c = 0x0100#16 then .classSuccessResponse rest
  else .classErrorResponse rest

/-- R89, R144: the method pattern, and the class bits as operand. -/
def decodeMethod (mt : Half) : Except Reject Instr :=
  if mt &&& methodMask = bindingPattern then .ok (.methodBinding (mt &&& classMask)) else .error .methodUnrecognised

/-! ## The decoder of bytes -/

/-- Two bytes as a big-endian 16-bit word (20_memory.md R60). -/
def halfOfBytes (hi lo : Byte) : Half := BitVec.ofNat 16 (hi.toNat * 256 + lo.toNat)

/-- The bytes of a 16-bit word, the more significant first (R60). -/
def bytesOfHalf (h : Half) : List Byte := [BitVec.ofNat 8 (h.toNat / 256), BitVec.ofNat 8 (h.toNat % 256)]

/-- The instruction at a place and the bytes after it. -/
def decode : Slot → List Byte → Except Reject (Instr × List Byte)
  | .command, b :: rest => .ok (decodeCmd b, rest)
  | .msgType, b0 :: b1 :: rest => .ok (decodeMsgType (halfOfBytes b0 b1), rest)
  | .leadingBits, b0 :: b1 :: rest => (decodeLeading (halfOfBytes b0 b1)).map (fun i => (i, rest))
  | .msgClass, b0 :: b1 :: rest => .ok (decodeClass (halfOfBytes b0 b1), rest)
  | .method, b0 :: b1 :: rest => (decodeMethod (halfOfBytes b0 b1)).map (fun i => (i, rest))
  | .attrType, b0 :: b1 :: rest => .ok (decodeAttrType (halfOfBytes b0 b1), rest)
  | _, _ => .error .truncated

/-! ## The encoder -/

/-- The place an instruction's word stands in. -/
def slotOf : Instr → Slot
  | .nop | .reset | .clrErr | .msgEnd | .hdrBuild | .hdrEnc | .hdrDec | .attrEnc | .attrDec | .crcRun => .command
  | .cmdUndefined _ => .command
  | .mtLeadingZero _ => .leadingBits
  | .classRequest _ | .classIndication _ | .classSuccessResponse _ | .classErrorResponse _ => .msgClass
  | .methodBinding _ => .method
  | .bindingRequest | .bindingIndication | .bindingSuccessResponse | .bindingErrorResponse => .msgType
  | .mtUnrecognised _ => .msgType
  | .mappedAddress | .xorMappedAddress | .software | .fingerprint | .generic _ => .attrType

/-- The bytes of an instruction's word. -/
def encode : Instr → List Byte
  | .nop => [0x00#8]
  | .reset => [0x01#8]
  | .clrErr => [0x02#8]
  | .msgEnd => [0x03#8]
  | .hdrBuild => [0x10#8]
  | .hdrEnc => [0x11#8]
  | .hdrDec => [0x12#8]
  | .attrEnc => [0x20#8]
  | .attrDec => [0x21#8]
  | .crcRun => [0x30#8]
  | .cmdUndefined op => [op]
  | .mtLeadingZero rest => bytesOfHalf rest
  | .classRequest rest => bytesOfHalf (rest ||| 0x0000#16)
  | .classIndication rest => bytesOfHalf (rest ||| 0x0010#16)
  | .classSuccessResponse rest => bytesOfHalf (rest ||| 0x0100#16)
  | .classErrorResponse rest => bytesOfHalf (rest ||| 0x0110#16)
  | .methodBinding cls => bytesOfHalf (bindingPattern ||| cls)
  | .bindingRequest => [0x00#8, 0x01#8]
  | .bindingIndication => [0x00#8, 0x11#8]
  | .bindingSuccessResponse => [0x01#8, 0x01#8]
  | .bindingErrorResponse => [0x01#8, 0x11#8]
  | .mtUnrecognised mt => bytesOfHalf mt
  | .mappedAddress => [0x00#8, 0x01#8]
  | .xorMappedAddress => [0x00#8, 0x20#8]
  | .software => [0x80#8, 0x22#8]
  | .fingerprint => [0x80#8, 0x28#8]
  | .generic t => bytesOfHalf t

/-! ## One word as the table numbers it -/

/-- DESIGN CHOICE (log entry 7). The table has three formats and a 16-bit word alone does not say which place it
stands in. A full-width row decides: an accepted message type (R90) first, then an attribute type (R100). Any other
word matches exactly one class row (R88), whose operand is the rest of the word. -/
def tableSlot (w : Half) : Slot :=
  if (msgTypeRows.lookup w).isSome then .msgType
  else if (attrTypeRows.lookup w).isSome then .attrType
  else .msgClass

/-- The instruction of a word of `nbits` bits numbered as spec/opcode_table.json numbers it: a 16-bit word stands in
MB big-endian, so its low byte is the second byte. -/
def decodeTableWord (nbits w : Nat) : Option Instr :=
  if nbits = 8 then
    if w < 256 then ((decode .command [BitVec.ofNat 8 w]).toOption).map Prod.fst else none
  else if nbits = 16 then
    if w < 65536 then
      ((decode (tableSlot (BitVec.ofNat 16 w)) (bytesOfHalf (BitVec.ofNat 16 w))).toOption).map Prod.fst
    else none
  else none

end Sys2Proof
end

