-- ==== Sys2Proof/Config.lean ====
section
/-! DEFINITION. What is fixed for this hardware (00_scope.md R9) and the FREE VALUES: what the spec leaves to the
environment. An `opaque` constant has no body, so no proof can know its value. -/

namespace Sys2Proof.Config

/-- R9 `MBSIZE`: bytes of the message buffer. Log entry 10. -/
abbrev mbSize : Nat := 65552

/-- R9 `VBSIZE`: bytes of the value buffer. Log entry 10. -/
abbrev vbSize : Nat := 65528

/-- R9 `METHOD_SET`, the recognised method patterns. Log entry 10. -/
def methodSet : List Half := [0x0001#16]

/-- R9 `CLASS_SET`, the four class patterns (R88). -/
def classSet : List Half := [0x0000#16, 0x0010#16, 0x0100#16, 0x0110#16]

/-- FREE VALUE (R53, R133): the value of the 96-bit input RND at the n-th draw. Log entry 3. -/
opaque rnd : Nat → BitVec 96

/-- FREE VALUE (R291): what a byte of MB that nothing has written since hardware reset number `epoch` holds.
Log entry 2. -/
opaque mbUnwritten (epoch off : Nat) : Byte

/-- FREE VALUE (R291): the same for VB. Log entry 2. -/
opaque vbUnwritten (epoch off : Nat) : Byte

end Sys2Proof.Config
end

