-- ==== Sys2Proof/Machine/State.lean ====
section
/-! DEFINITION. The state of the SCU (10_state.md R20 to R55), as plain data, the state after hardware reset, and the
reasons a step can stop. -/

namespace Sys2Proof.Machine

/-- STATUS.MODE (R26, R27): 0 IDLE, 1 ENC, 2 DEC; value 3 never occurs. -/
inductive Mode where
  | idle
  | enc
  | dec
  deriving DecidableEq, Repr

/-- The variant of an attribute, register A_KIND (R42): 0 to 4 in this order; 5 to 7 never occur. -/
inductive Kind where
  | generic
  | mapped
  | xorMapped
  | software
  | fingerprint
  deriving DecidableEq, Repr

/-- The error codes a command can report (60_exceptions.md R260), codes 1 to 12 in this order. -/
inductive ErrCode where
  | leadBits
  | cookie
  | type
  | length
  | reserved
  | fingerprint
  | tid
  | seq
  | operand
  | overflow
  | unsupp
  | opcode
  deriving DecidableEq, Repr

/-- One thing the outside world does to the SCU: the six host operations (44_system_and_host.md R240 to R245) and the
hardware reset (70_reset_and_hazards.md R290). Operands are as wide as the port carries them. -/
inductive Event where
  | wr (reg : Byte) (value : Word)
  | rd (reg : Byte)
  | wb (off : Offset) (byte : Byte)
  | rb (off : Offset)
  | wv (off : Offset) (byte : Byte)
  | rv (off : Offset)
  | hwReset
  deriving DecidableEq, Repr

/-- What the port returned to the host for the last event: nothing, a register (R242), or a buffer byte (R244). -/
inductive Reply where
  | none
  | reg (value : Word)
  | byte (value : Byte)
  deriving DecidableEq, Repr

/-- The attribute record, registers 0x40 to 0x4B (R39 to R49). -/
structure AttrRecord where
  typ     : Half       -- A_TYPE
  len     : Half       -- A_LEN
  kind    : Kind       -- A_KIND
  family  : Byte       -- A_FAMILY
  port    : Half       -- A_PORT
  addr    : Word       -- A_ADDR
  addrLen : BitVec 3   -- A_ADDRLEN
  xport   : Half       -- A_XPORT
  xaddr   : Word       -- A_XADDR
  fp      : Word       -- A_FP
  voff    : Offset     -- A_VOFF
  off     : Offset     -- A_OFF
  deriving DecidableEq, Repr

/-- Every register of the record 0 (R55, R171). -/
def AttrRecord.zero : AttrRecord :=
  { typ := 0, len := 0, kind := .generic, family := 0, port := 0, addr := 0, addrLen := 0, xport := 0, xaddr := 0,
    fp := 0, voff := 0, off := 0 }

/-- A buffer: the bytes something has written since hardware reset, by strictly rising offset. An offset that is not
listed has no stored byte: it reads as a free value (R291, log entry 2). -/
abbrev Memory := List Host.Cell

/-- The whole state. The last four fields are the MODEL's own (log entries 1 to 4): the events the outside world will
apply, oldest first; the port's answer to the last one; how many draws RND has answered; how many hardware resets
there have been. -/
structure State where
  ctrl      : BitVec 2   -- CTRL: bit 0 TIDCHK, bit 1 TIDGEN
  err       : Byte       -- STATUS.ERR
  mode      : Mode       -- STATUS.MODE
  firstCode : Byte       -- FIRSTERR.CODE
  firstOp   : Byte       -- FIRSTERR.OP
  rxLen     : Offset     -- RXLEN
  txLen     : Offset     -- TXLEN
  cur       : Offset     -- CUR
  endOff    : Offset     -- END
  hClass    : Half       -- H_CLASS
  hMethod   : Half       -- H_METHOD
  hLen      : Half       -- H_LEN
  hTid      : Tid        -- H_TID[0..11]
  expTid    : Tid        -- EXP_TID[0..11]
  attr      : AttrRecord -- A_TYPE to A_OFF
  crcStart  : Offset     -- CRC_START
  crcEnd    : Offset     -- CRC_END
  crcRes    : Word       -- CRC_RES
  mb        : Memory     -- the message buffer
  vb        : Memory     -- the value buffer
  port      : List Event
  reply     : Reply
  draws     : Nat
  epoch     : Nat
  deriving DecidableEq, Repr

/-- Right after hardware reset (R55, R293): every register 0; no byte of MB or VB is known (R291). No host operation
is pending: a host program comes from outside (log entry 1). -/
def State.reset : State :=
  { ctrl := 0, err := 0, mode := .idle, firstCode := 0, firstOp := 0, rxLen := 0, txLen := 0, cur := 0, endOff := 0,
    hClass := 0, hMethod := 0, hLen := 0, hTid := Vector.replicate 12 0, expTid := Vector.replicate 12 0,
    attr := AttrRecord.zero, crcStart := 0, crcEnd := 0, crcRes := 0, mb := [], vb := [],
    port := [], reply := .none, draws := 0, epoch := 0 }

/-- Why the machine stops. -/
inductive Fault where
  /-- Raised by ATTR_ENC and ATTR_DEC (and by the attribute-type instructions) where CUR or END point outside the
  attribute section of MB, so that an offset the command touches may not exist. R33 says no run reaches such a state,
  and R12 lets a model treat the access as unreachable. SAFE: the model stops. Log entry 9. -/
  | cursorOutsideMb
  deriving DecidableEq, Repr

/-- Why an instruction has no meaning in the model. -/
inductive Refusal where
  /-- Raised only by an arm of `exec` whose instruction has no meaning yet. SAFE: the model stops. -/
  | notModelled (mnemonic : String)
  deriving DecidableEq, Repr

/-- The answer of a meaning. -/
abbrev Outcome := Host.Outcome State Fault Refusal

end Sys2Proof.Machine
end

