-- ==== Sys2Proof/Machine/Ops.lean ====
section
/-! DEFINITION. The shared operations: buffers, the memory primitives of 00_scope.md R12, padding, and the three ends
of a command (R13): success, ParseError entry (60_exceptions.md R266), Refusal entry (R267). -/

namespace Sys2Proof.Machine

/-! ## Buffers as lists of written bytes -/

/-- The byte written at an offset, if one was. -/
def Memory.get? : Memory → Nat → Option Byte
  | [], _ => none
  | (b, w) :: rest, a => if a = b then some w else Memory.get? rest a

/-- One byte written; the list stays strictly rising. -/
def Memory.set : Memory → Nat → Byte → Memory
  | [], a, v => [(a, v)]
  | (b, w) :: rest, a, v =>
    if a < b then (a, v) :: (b, w) :: rest
    else if a = b then (a, v) :: rest
    else (b, w) :: Memory.set rest a v

/-- Bytes written one after another from an offset on. -/
def Memory.setBytes : Memory → Nat → List Byte → Memory
  | m, _, [] => m
  | m, a, b :: bs => Memory.setBytes (Memory.set m a b) (a + 1) bs

/-- Every offset is at least `lo` and below `size`, and the offsets strictly rise. -/
def Memory.wfFrom (size : Nat) : Nat → Memory → Bool
  | _, [] => true
  | lo, (a, _) :: rest => decide (lo ≤ a) && decide (a < size) && Memory.wfFrom size (a + 1) rest

/-- The canonical form of a buffer of `size` bytes: strictly rising offsets below its size. An unlisted offset has no
stored byte, so no listed one can repeat it (log entry 2). -/
def Memory.wf (size : Nat) (m : Memory) : Bool := Memory.wfFrom size 0 m

/-- MB as a reader sees it: the latest byte written, or the unspecified byte of this hardware reset (R76, R291). -/
def State.mbSpace (s : State) : Space := fun a => (Memory.get? s.mb a).getD (Config.mbUnwritten s.epoch a)

/-- VB as a reader sees it. -/
def State.vbSpace (s : State) : Space := fun a => (Memory.get? s.vb a).getD (Config.vbUnwritten s.epoch a)

/-! ## Memory primitives (R12), big-endian (20_memory.md R60) -/

/-- R12 `MemRead(S, a, n) = S[a] * 256^(n-1) + ... + S[a+n-1]`. -/
def memRead (S : Space) (a : Nat) : Nat → Nat
  | 0 => 0
  | n + 1 => (S a).toNat * 256 ^ n + memRead S (a + 1) n

/-- A 16-bit field of a space. -/
def read16 (S : Space) (a : Nat) : Half := BitVec.ofNat 16 (memRead S a 2)

/-- A 32-bit field of a space. -/
def read32 (S : Space) (a : Nat) : Word := BitVec.ofNat 32 (memRead S a 4)

/-- The bytes `MemWrite(S, a, n, v)` stores: the `n` low-order bytes of `v`, the most significant first. -/
def beBytes : Nat → Nat → List Byte
  | 0, _ => []
  | n + 1, v => BitVec.ofNat 8 (v / 256 ^ n) :: beBytes n v

/-- The bytes `S[a] .. S[a+n-1]`, in rising order: what `MemCopy` moves. -/
def slice (S : Space) (a : Nat) : Nat → List Byte
  | 0 => []
  | n + 1 => S a :: slice S (a + 1) n

/-- What `MemZero` stores. -/
def zeros (n : Nat) : List Byte := List.replicate n 0#8

/-- Twelve bytes of a space as a transaction identifier. -/
def readTid (S : Space) (a : Nat) : Tid := Vector.ofFn fun i => S (a + i.val)

/-- R133: a 96-bit value taken as 12 bytes, `t[0]` the most significant. -/
def tidOfBits (t : BitVec 96) : Tid := Vector.ofFn fun i => t.extractLsb' (8 * (11 - i.val)) 8

/-! ## Padding (R11, R97) -/

/-- R97 `pad(l) = (4 - (l mod 4)) mod 4`. -/
def pad (l : Nat) : Nat := (4 - l % 4) % 4

/-- R11 `padded(l) = l + pad(l)`. -/
def padded (l : Nat) : Nat := l + pad l

/-- The on-wire size of an attribute of value length `l` (R16, R96). -/
def wireSize (l : Nat) : Nat := 4 + padded l

/-! ## Constants of the wire format (R8) -/

def cookie : Word := 0x2112A442#32
def cookieHi16 : Half := 0x2112#16
def fpXor : Word := 0x5354554E#32
def familyIPv4 : Byte := 1#8

/-! ## The end of a command -/

/-- The number of an error code (R260). -/
def ErrCode.toByte : ErrCode → Byte
  | .leadBits => 1
  | .cookie => 2
  | .type => 3
  | .length => 4
  | .reserved => 5
  | .fingerprint => 6
  | .tid => 7
  | .seq => 8
  | .operand => 9
  | .overflow => 10
  | .unsupp => 11
  | .opcode => 12

/-- What every failure records (R28, R264): STATUS.ERR, and FIRSTERR if no failure stands in it (first wins). -/
def State.recordFailure (op : Byte) (e : ErrCode) (s : State) : State :=
  { s with
    err := e.toByte
    firstCode := if s.firstCode = 0#8 then e.toByte else s.firstCode
    firstOp := if s.firstCode = 0#8 then op else s.firstOp }

/-- R268 `ok()`: STATUS.ERR is 0, FIRSTERR unchanged. -/
def State.succeed (s : State) : State := { s with err := 0 }

/-- R266 `raise ParseError(e)`, the exception entry of a failed decode: the failure is recorded and MODE is IDLE; what
the command wrote before stays written. -/
def State.parseError (op : Byte) (e : ErrCode) (s : State) : State := { s.recordFailure op e with mode := .idle }

/-- R267 `raise Refusal(e)`: the failure is recorded, nothing else changes. There is no return from either entry
(R270): nothing was saved. -/
def State.refusal (op : Byte) (e : ErrCode) (s : State) : State := s.recordFailure op e

/-- A command that ends well. -/
def done (s : State) : Outcome := .next s.succeed

/-- A command that ends with a ParseError. -/
def raiseParseError (op : Byte) (e : ErrCode) (s : State) : Outcome := .next (s.parseError op e)

/-- A command that ends with a Refusal. -/
def raiseRefusal (op : Byte) (e : ErrCode) (s : State) : Outcome := .next (s.refusal op e)

/-! ## The operation codes FIRSTERR.OP records (R28, R110) -/

def opMsgEnd : Byte := 0x03#8
def opHdrBuild : Byte := 0x10#8
def opHdrEnc : Byte := 0x11#8
def opHdrDec : Byte := 0x12#8
def opAttrEnc : Byte := 0x20#8
def opAttrDec : Byte := 0x21#8
def opCrcRun : Byte := 0x30#8

end Sys2Proof.Machine
end

