-- ==== Sys2Proof/Machine/Flags.lean ====
section
/-! DEFINITION. The fields of the control and status registers (10_state.md R25 to R28), and STATUS and FIRSTERR put
together as the host reads them. -/

namespace Sys2Proof.Machine

/-- CTRL.TIDCHK, bit 0 (R25). -/
def State.tidchk (s : State) : Bool := s.ctrl.getLsbD 0

/-- CTRL.TIDGEN, bit 1 (R25). -/
def State.tidgen (s : State) : Bool := s.ctrl.getLsbD 1

/-- The two bits of STATUS.MODE (R26). -/
def Mode.toBits : Mode → BitVec 2
  | .idle => 0
  | .enc => 1
  | .dec => 2

/-- STATUS.MORE (R26): MODE is DEC and CUR is below END. It is computed, not stored. -/
def State.more (s : State) : Bool := decide (s.mode = .dec) && decide (s.cur.toNat < s.endOff.toNat)

/-- STATUS (R26): ERR in bits 7 to 0, MODE in 9 to 8, MORE in 10. -/
def State.status (s : State) : BitVec 11 := (BitVec.ofBool s.more ++ s.mode.toBits) ++ s.err

/-- FIRSTERR (R28): CODE in bits 7 to 0, OP in 15 to 8. -/
def State.firstErr (s : State) : BitVec 16 := s.firstOp ++ s.firstCode

end Sys2Proof.Machine
end

