-- ==== Sys2Proof/Machine/Operands.lean ====
section
/-! DEFINITION. The operands of commands and of the host port: the register file by number (10_state.md R21, R22), the
variant of a type code (30_encoding.md R100), the header operands (41_header_codec.md R131). -/

namespace Sys2Proof.Machine

/-! ## The registers of R22 -/

/-- The readable registers by name; CMD holds no value (R24) and is not among them. -/
inductive Reg where
  | ctrl | status | firstErr | rxLen | txLen | cur | endOff
  | hClass | hMethod | hLen
  | hTid (i : Fin 12)
  | expTid (i : Fin 12)
  | aType | aLen | aKind | aFamily | aPort | aAddr | aAddrLen | aXport | aXaddr | aFp | aVoff | aOff
  | crcStart | crcEnd | crcRes
  deriving DecidableEq, Repr

/-- The register a number names; none for CMD and for an undefined number (R248). -/
def regOf (n : Byte) : Option Reg :=
  if h : 0x20 ≤ n.toNat ∧ n.toNat < 0x2C then some (.hTid ⟨n.toNat - 0x20, by omega⟩)
  else if h : 0x30 ≤ n.toNat ∧ n.toNat < 0x3C then some (.expTid ⟨n.toNat - 0x30, by omega⟩)
  else match n.toNat with
  | 0x01 => some .ctrl
  | 0x02 => some .status
  | 0x03 => some .firstErr
  | 0x04 => some .rxLen
  | 0x05 => some .txLen
  | 0x06 => some .cur
  | 0x07 => some .endOff
  | 0x10 => some .hClass
  | 0x11 => some .hMethod
  | 0x12 => some .hLen
  | 0x40 => some .aType
  | 0x41 => some .aLen
  | 0x42 => some .aKind
  | 0x43 => some .aFamily
  | 0x44 => some .aPort
  | 0x45 => some .aAddr
  | 0x46 => some .aAddrLen
  | 0x47 => some .aXport
  | 0x48 => some .aXaddr
  | 0x49 => some .aFp
  | 0x4A => some .aVoff
  | 0x4B => some .aOff
  | 0x50 => some .crcStart
  | 0x51 => some .crcEnd
  | 0x52 => some .crcRes
  | _ => none

/-- The number of a register (R22). -/
def Reg.number : Reg → Byte
  | .ctrl => 0x01
  | .status => 0x02
  | .firstErr => 0x03
  | .rxLen => 0x04
  | .txLen => 0x05
  | .cur => 0x06
  | .endOff => 0x07
  | .hClass => 0x10
  | .hMethod => 0x11
  | .hLen => 0x12
  | .hTid i => BitVec.ofNat 8 (0x20 + i.val)
  | .expTid i => BitVec.ofNat 8 (0x30 + i.val)
  | .aType => 0x40
  | .aLen => 0x41
  | .aKind => 0x42
  | .aFamily => 0x43
  | .aPort => 0x44
  | .aAddr => 0x45
  | .aAddrLen => 0x46
  | .aXport => 0x47
  | .aXaddr => 0x48
  | .aFp => 0x49
  | .aVoff => 0x4A
  | .aOff => 0x4B
  | .crcStart => 0x50
  | .crcEnd => 0x51
  | .crcRes => 0x52

/-- The width of a register (R22). -/
def Reg.width : Reg → Nat
  | .ctrl => 2
  | .status => 11
  | .firstErr => 16
  | .rxLen | .txLen | .cur | .endOff => 17
  | .hClass | .hMethod | .hLen => 16
  | .hTid _ | .expTid _ => 8
  | .aType | .aLen => 16
  | .aKind => 3
  | .aFamily => 8
  | .aPort => 16
  | .aAddr => 32
  | .aAddrLen => 3
  | .aXport => 16
  | .aXaddr | .aFp => 32
  | .aVoff | .aOff => 17
  | .crcStart | .crcEnd => 17
  | .crcRes => 32

/-- Whether a host write reaches the register (R22, R247): the `RW` registers. -/
def Reg.writable : Reg → Bool
  | .ctrl | .rxLen | .hClass | .hMethod | .hTid _ | .expTid _ => true
  | .aType | .aLen | .aFamily | .aPort | .aAddr => true
  | .crcStart | .crcEnd => true
  | .status | .firstErr | .txLen | .cur | .endOff | .hLen => false
  | .aKind | .aAddrLen | .aXport | .aXaddr | .aFp | .aVoff | .aOff => false
  | .crcRes => false

/-- The 3-bit variant tag A_KIND (R42). -/
def Kind.toBits : Kind → BitVec 3
  | .generic => 0
  | .mapped => 1
  | .xorMapped => 2
  | .software => 3
  | .fingerprint => 4

/-- A register as the host reads it, zero-extended to 32 bits (R242, R246). -/
def Reg.read : Reg → State → Word
  | .ctrl, s => s.ctrl.setWidth 32
  | .status, s => s.status.setWidth 32
  | .firstErr, s => s.firstErr.setWidth 32
  | .rxLen, s => s.rxLen.setWidth 32
  | .txLen, s => s.txLen.setWidth 32
  | .cur, s => s.cur.setWidth 32
  | .endOff, s => s.endOff.setWidth 32
  | .hClass, s => s.hClass.setWidth 32
  | .hMethod, s => s.hMethod.setWidth 32
  | .hLen, s => s.hLen.setWidth 32
  | .hTid i, s => (s.hTid.get i).setWidth 32
  | .expTid i, s => (s.expTid.get i).setWidth 32
  | .aType, s => s.attr.typ.setWidth 32
  | .aLen, s => s.attr.len.setWidth 32
  | .aKind, s => s.attr.kind.toBits.setWidth 32
  | .aFamily, s => s.attr.family.setWidth 32
  | .aPort, s => s.attr.port.setWidth 32
  | .aAddr, s => s.attr.addr
  | .aAddrLen, s => s.attr.addrLen.setWidth 32
  | .aXport, s => s.attr.xport.setWidth 32
  | .aXaddr, s => s.attr.xaddr
  | .aFp, s => s.attr.fp
  | .aVoff, s => s.attr.voff.setWidth 32
  | .aOff, s => s.attr.off.setWidth 32
  | .crcStart, s => s.crcStart.setWidth 32
  | .crcEnd, s => s.crcEnd.setWidth 32
  | .crcRes, s => s.crcRes

/-- A host write to a register: the low bits of the data, as many as the register has (R241, R246); no effect on a
read-only register (R247). -/
def Reg.write : Reg → Word → State → State
  | .ctrl, v, s => { s with ctrl := v.setWidth 2 }
  | .rxLen, v, s => { s with rxLen := v.setWidth 17 }
  | .hClass, v, s => { s with hClass := v.setWidth 16 }
  | .hMethod, v, s => { s with hMethod := v.setWidth 16 }
  | .hTid i, v, s => { s with hTid := s.hTid.set i.val (v.setWidth 8) }
  | .expTid i, v, s => { s with expTid := s.expTid.set i.val (v.setWidth 8) }
  | .aType, v, s => { s with attr := { s.attr with typ := v.setWidth 16 } }
  | .aLen, v, s => { s with attr := { s.attr with len := v.setWidth 16 } }
  | .aFamily, v, s => { s with attr := { s.attr with family := v.setWidth 8 } }
  | .aPort, v, s => { s with attr := { s.attr with port := v.setWidth 16 } }
  | .aAddr, v, s => { s with attr := { s.attr with addr := v } }
  | .crcStart, v, s => { s with crcStart := v.setWidth 17 }
  | .crcEnd, v, s => { s with crcEnd := v.setWidth 17 }
  | .status, _, s => s
  | .firstErr, _, s => s
  | .txLen, _, s => s
  | .cur, _, s => s
  | .endOff, _, s => s
  | .hLen, _, s => s
  | .aKind, _, s => s
  | .aAddrLen, _, s => s
  | .aXport, _, s => s
  | .aXaddr, _, s => s
  | .aFp, _, s => s
  | .aVoff, _, s => s
  | .aOff, _, s => s
  | .crcRes, _, s => s

/-! ## Operands of the codecs -/

/-- R100 `KindOf(t)`. -/
def kindOf (t : Half) : Kind :=
  if t = 0x0001#16 then .mapped
  else if t = 0x0020#16 then .xorMapped
  else if t = 0x8022#16 then .software
  else if t = 0x8028#16 then .fingerprint
  else .generic

/-- R131 `HdrOperandsOk`. -/
def hdrOperandsOk (s : State) : Bool := Config.classSet.contains s.hClass && Config.methodSet.contains s.hMethod

/-- R162: the value length ATTR_ENC uses for a variant. -/
def valueLength (k : Kind) (r : AttrRecord) : Nat :=
  match k with
  | .mapped => 8
  | .xorMapped => 8
  | .software => r.len.toNat
  | .fingerprint => 4
  | .generic => 0

end Sys2Proof.Machine
end

