-- ==== Sys2Proof/Machine/Attribute.lean ====
section
/-! DEFINITION. The attribute codec (42_attribute_codec.md): ATTR_ENC, ATTR_DEC, and the five attribute-type rows of the
table, each of which is ATTR_DEC of an attribute at CUR whose type code is that row's word (log entry 6). -/

namespace Sys2Proof.Machine

/-! ## Encode -/

/-- The value bytes of one attribute and the record with the variant's result fields: R166 (MappedAddress), R167
(XorMappedAddress), R168 (Software), R169 (Fingerprint). `M` is MB with the length field already rewritten, `V` is VB,
`o` the attribute's start, `l` its value length. -/
def encodeValue (k : Kind) (M V : Space) (o l : Nat) (r : AttrRecord) : AttrRecord × List Byte :=
  match k with
  | .mapped =>
    ({ r with addrLen := 4 }, [0x00#8, 0x01#8] ++ beBytes 2 r.port.toNat ++ beBytes 4 r.addr.toNat)
  | .xorMapped =>
    let xp := r.port ^^^ cookieHi16
    let xa := r.addr ^^^ cookie
    ({ r with xport := xp, xaddr := xa, addrLen := 4 }, [0x00#8, 0x01#8] ++ beBytes 2 xp.toNat ++ beBytes 4 xa.toNat)
  | .software => (r, slice V 0 l)
  | .fingerprint =>
    let fp := fingerprintAt M o
    ({ r with fp := fp }, beBytes 4 fp.toNat)
  | .generic => (r, [])

/-- The bytes of a whole ATTR record (R96): type, length, value, zero padding (R97). -/
def attrBytes (t : Half) (l : Nat) (value : List Byte) : List Byte :=
  beBytes 2 t.toNat ++ beBytes 2 l ++ value ++ zeros (pad l)

/-- What ATTR_ENC writes once nothing refuses it (R165): H_LEN and MB[2..3] first (R164), then the record at CUR. -/
def appendAttr (k : Kind) (s : State) : State :=
  let l := valueLength k s.attr
  let o := s.cur.toNat
  let hLen := s.hLen + BitVec.ofNat 16 (wireSize l)
  let s1 := { s with hLen := hLen, mb := Memory.setBytes s.mb 2 (beBytes 2 hLen.toNat) }
  let r := { s.attr with
    off := BitVec.ofNat 17 o, voff := BitVec.ofNat 17 (o + 4), len := BitVec.ofNat 16 l, kind := k
    addrLen := 0, xport := 0, xaddr := 0, fp := 0 }
  let (r', value) := encodeValue k s1.mbSpace s1.vbSpace o l r
  { s1 with
    attr := r'
    mb := Memory.setBytes s1.mb o (attrBytes s.attr.typ l value)
    cur := BitVec.ofNat 17 (o + wireSize l) }

/-- ATTR_ENC, code 0x20 (R165). -/
def execAttrEnc (s : State) : Outcome :=
  let k := kindOf s.attr.typ
  if s.mode ≠ .enc then raiseRefusal opAttrEnc .seq s
  else if k = .generic then raiseRefusal opAttrEnc .unsupp s
  else if (k = .mapped ∨ k = .xorMapped) ∧ s.attr.family ≠ familyIPv4 then raiseRefusal opAttrEnc .unsupp s
  else if Config.mbSize < s.cur.toNat + wireSize (valueLength k s.attr) then raiseRefusal opAttrEnc .overflow s
  else if s.cur.toNat < 20 then .fault .cursorOutsideMb
  else done (appendAttr k s)

/-! ## Decode -/

/-- What the decode of one attribute gives: the record as far as it was written (R185), the bytes for VB, and the
error that ended it, if one did. -/
structure Decoded where
  record : AttrRecord
  text   : List Byte
  err    : Option ErrCode
  deriving DecidableEq, Repr

/-- How the value of a variant is read: from the space, the attribute's start `o`, its length `l` and the record with
the fields every variant has. -/
abbrev ValueDecoder := Space → Nat → Nat → AttrRecord → Decoded

/-- The value of an address attribute (R98, R173, R176 to R180). `pmask` and `amask` are what port and address are
XORed with; `xor` says whether the wire fields are recorded. -/
def decodeAddress (xor : Bool) (pmask : Half) (amask : Word) : ValueDecoder := fun B o l r =>
  let v := o + 4
  if l < 4 then { record := r, text := [], err := some .length }
  else if B v ≠ 0#8 then { record := r, text := [], err := some .reserved }
  else
    let wp := read16 B (v + 2)
    let r1 := { r with family := B (v + 1), port := wp ^^^ pmask, xport := if xor then wp else 0 }
    if B (v + 1) = familyIPv4 then
      if l < 8 then { record := r1, text := [], err := some .length }
      else
        let wa := read32 B (v + 4)
        { record := { r1 with addr := wa ^^^ amask, xaddr := if xor then wa else 0, addrLen := 4 }, text := [], err := none }
    else { record := r1, text := [], err := none }

/-- MappedAddress (R176): port and address as they stand. -/
def decodeMapped : ValueDecoder := decodeAddress false 0 0

/-- XorMappedAddress (R177): the wire fields recorded, and XORed with the cookie. -/
def decodeXorMapped : ValueDecoder := decodeAddress true cookieHi16 cookie

/-- Software (R181): the value bytes go to VB. -/
def decodeSoftware : ValueDecoder := fun B o l r => { record := r, text := slice B (o + 4) l, err := none }

/-- Fingerprint (R182): the stored value against the CRC of the bytes before the attribute. -/
def decodeFingerprint : ValueDecoder := fun B o l r =>
  if l ≠ 4 then { record := r, text := [], err := some .length }
  else
    let r1 := { r with fp := read32 B (o + 4) }
    { record := r1, text := [], err := if fingerprintAt B o ≠ r1.fp then some .fingerprint else none }

/-- Generic (R183): the value is skipped, unread. -/
def decodeGeneric : ValueDecoder := fun _ _ _ r => { record := r, text := [], err := none }

/-- The decoder of a variant's value. -/
def valueDecoder : Kind → ValueDecoder
  | .generic => decodeGeneric
  | .mapped => decodeMapped
  | .xorMapped => decodeXorMapped
  | .software => decodeSoftware
  | .fingerprint => decodeFingerprint

/-- The length field of the attribute at `o` (R96). -/
def attrLength (B : Space) (o : Nat) : Nat := (read16 B (o + 2)).toNat

/-- The pure step of R173 for an attribute at `o` with type code `t`: the record cleared (R171), the fields of every
variant, the framing check (R174), the value. -/
def decodeAttrAs (t : Half) (k : Kind) (value : ValueDecoder) (B : Space) (o stop : Nat) : Decoded :=
  let l := attrLength B o
  let r := { AttrRecord.zero with
    off := BitVec.ofNat 17 o, voff := BitVec.ofNat 17 (o + 4), typ := t, len := BitVec.ofNat 16 l, kind := k }
  if stop < o + wireSize l then { record := r, text := [], err := some .length } else value B o l r

/-- The pure step of R173 for the attribute that stands at `o`. -/
def decodeAttrAt (B : Space) (o stop : Nat) : Decoded :=
  let t := read16 B o
  decodeAttrAs t (kindOf t) (valueDecoder (kindOf t)) B o stop

/-- ATTR_DEC of an attribute whose type code is `t` (R173): refused without an attribute to decode (R172); the record,
and VB for Software, are written; CUR advances past the attribute, or the decode ends with a ParseError (R185). -/
def attrDecode (t : Half) (k : Kind) (value : ValueDecoder) (s : State) : Outcome :=
  let o := s.cur.toNat
  if s.mode ≠ .dec ∨ s.endOff.toNat ≤ o then raiseRefusal opAttrDec .seq s
  else if o < 20 ∨ Config.mbSize < o + 4 ∨ Config.mbSize < s.endOff.toNat then .fault .cursorOutsideMb
  else
    let d := decodeAttrAs t k value s.mbSpace o s.endOff.toNat
    match d.err with
    | some e => raiseParseError opAttrDec e { s with attr := d.record }
    | none =>
      done { s with
        attr := d.record
        vb := Memory.setBytes s.vb 0 d.text
        cur := BitVec.ofNat 17 (o + wireSize (attrLength s.mbSpace o)) }

/-- ATTR_DEC, code 0x21: the attribute at CUR, with the type code that stands there. -/
def execAttrDec (s : State) : Outcome :=
  attrDecode (read16 s.mbSpace s.cur.toNat) (kindOf (read16 s.mbSpace s.cur.toNat))
    (valueDecoder (kindOf (read16 s.mbSpace s.cur.toNat))) s

/-! ## The attribute types (R100, R176 to R183) -/

/-- MAPPED_ADDRESS (R176). -/
def execMappedAddress (s : State) : Outcome := attrDecode typeMappedAddress .mapped decodeMapped s

/-- XOR_MAPPED_ADDRESS (R177). -/
def execXorMappedAddress (s : State) : Outcome := attrDecode typeXorMappedAddress .xorMapped decodeXorMapped s

/-- SOFTWARE (R181). -/
def execSoftware (s : State) : Outcome := attrDecode typeSoftware .software decodeSoftware s

/-- FINGERPRINT (R182). -/
def execFingerprint (s : State) : Outcome := attrDecode typeFingerprint .fingerprint decodeFingerprint s

/-- Any other type code (R183). -/
def execGeneric (t : Half) (s : State) : Outcome := attrDecode t .generic decodeGeneric s

end Sys2Proof.Machine
end

