-- ==== Sys2Proof/Machine/Header.lean ====
section
/-! DEFINITION. The header codec (41_header_codec.md): HDR_BUILD, HDR_ENC, HDR_DEC, and the eleven message-type rows of
the table, each of which is HDR_DEC of a header whose message type is that row's word (log entry 6). -/

namespace Sys2Proof.Machine

/-! ## Encode -/

/-- HDR_BUILD, code 0x10 (R132): with CTRL.TIDGEN the identifier is a draw from RND, a free value (R133, log
entry 3). -/
def execHdrBuild (s : State) : Outcome :=
  if !hdrOperandsOk s then raiseRefusal opHdrBuild .operand s
  else if s.tidgen then
    done { s with hTid := tidOfBits (Config.rnd s.draws), draws := s.draws + 1, hLen := 0, mode := .idle }
  else done { s with hLen := 0, mode := .idle }

/-- R135 `EncodeHeader(class, method, len, tid)`, 20 bytes. -/
def encodeHeader (cls method len : Half) (tid : Tid) : List Byte :=
  beBytes 2 (method ||| cls).toNat ++ beBytes 2 len.toNat ++ beBytes 4 cookie.toNat ++ tid.toList

/-- HDR_ENC, code 0x11 (R136). -/
def execHdrEnc (s : State) : Outcome :=
  if !hdrOperandsOk s then raiseRefusal opHdrEnc .operand s
  else
    done { s with
      hLen := 0
      mb := Memory.setBytes s.mb 0 (encodeHeader s.hClass s.hMethod 0 s.hTid)
      cur := 20
      txLen := 0
      mode := .enc }

/-! ## Decode -/

/-- The fields of a header that passed every check (R139). -/
structure Header where
  cls    : Half
  method : Half
  len    : Half
  tid    : Tid
  deriving DecidableEq, Repr

/-- The checks of R141 in their order, for a header whose message type is `mt`: received count (R140), leading bits
(R142), cookie (R143), class and method (R144), declared length (R145), transaction identifier (R146). -/
def decodeHeaderAs (mt : Half) (B : Space) (n : Nat) (tidchk : Bool) (exp : Tid) : Except ErrCode Header :=
  let cls := mt &&& classMask
  let method := mt &&& methodMask
  let len := read16 B 2
  if n < 20 ∨ Config.mbSize < n then .error .length
  else if mt &&& leadingMask ≠ 0#16 then .error .leadBits
  else if read32 B 4 ≠ cookie then .error .cookie
  else if !(Config.classSet.contains cls && Config.methodSet.contains method) then .error .type
  else if len.toNat % 4 ≠ 0 ∨ 20 + len.toNat ≠ n then .error .length
  else if tidchk ∧ readTid B 8 ≠ exp then .error .tid
  else .ok { cls := cls, method := method, len := len, tid := readTid B 8 }

/-- R139 `DecodeHeader(B, n, tidchk, exp)`. -/
def decodeHeader (B : Space) (n : Nat) (tidchk : Bool) (exp : Tid) : Except ErrCode Header :=
  decodeHeaderAs (read16 B 0) B n tidchk exp

/-- The register writes of a header decode whose message type is `mt`: all at its end (R147), or MODE and the error
record only (R148). -/
def hdrDecode (mt : Half) (s : State) : Outcome :=
  match decodeHeaderAs mt s.mbSpace s.rxLen.toNat s.tidchk s.expTid with
  | .error e => raiseParseError opHdrDec e s
  | .ok h =>
    done { s with
      hClass := h.cls, hMethod := h.method, hLen := h.len, hTid := h.tid
      cur := 20
      endOff := BitVec.ofNat 17 (20 + h.len.toNat)
      mode := .dec }

/-- HDR_DEC, code 0x12 (R141): the header in MB, with the message type that stands there. -/
def execHdrDec (s : State) : Outcome := hdrDecode (read16 s.mbSpace 0) s

/-! ## The message types (R87 to R90, R142, R144) -/

/-- A message type with bits 15 and 14 zero (R142). -/
def execMtLeadingZero (rest : Half) (s : State) : Outcome := hdrDecode rest s

/-- Class pattern Request, with the rest of the word (R88). -/
def execClassRequest (rest : Half) (s : State) : Outcome := hdrDecode (rest ||| 0x0000#16) s

/-- Class pattern Indication. -/
def execClassIndication (rest : Half) (s : State) : Outcome := hdrDecode (rest ||| 0x0010#16) s

/-- Class pattern SuccessResponse. -/
def execClassSuccessResponse (rest : Half) (s : State) : Outcome := hdrDecode (rest ||| 0x0100#16) s

/-- Class pattern ErrorResponse. -/
def execClassErrorResponse (rest : Half) (s : State) : Outcome := hdrDecode (rest ||| 0x0110#16) s

/-- Method pattern Binding, with the class bits (R89). -/
def execMethodBinding (cls : Half) (s : State) : Outcome := hdrDecode (bindingPattern ||| cls) s

/-- Binding Request (R90). -/
def execBindingRequest (s : State) : Outcome := hdrDecode 0x0001#16 s

/-- Binding Indication. -/
def execBindingIndication (s : State) : Outcome := hdrDecode 0x0011#16 s

/-- Binding SuccessResponse. -/
def execBindingSuccessResponse (s : State) : Outcome := hdrDecode 0x0101#16 s

/-- Binding ErrorResponse. -/
def execBindingErrorResponse (s : State) : Outcome := hdrDecode 0x0111#16 s

/-- Any other message type: fails with E_LEADBITS or, after the cookie check, with E_TYPE (R142, R144). -/
def execMtUnrecognised (mt : Half) (s : State) : Outcome := hdrDecode mt s

end Sys2Proof.Machine
end

