-- ==== Sys2Proof/Machine/System.lean ====
section
/-! DEFINITION. The system commands and the undefined codes (44_system_and_host.md R230 to R235). -/

namespace Sys2Proof.Machine

/-- Every register of R22 at its reset value 0 (R55, R232, R290); the buffers, the port and the model's own counters
stay. -/
def State.clearRegisters (s : State) : State :=
  { State.reset with
    mb := s.mb, vb := s.vb, port := s.port, reply := s.reply, draws := s.draws, epoch := s.epoch }

/-- NOP, code 0x00 (R231): STATUS.ERR is 0, nothing else changes. -/
def execNop (s : State) : Outcome := done s

/-- RESET, code 0x01 (R232, R292): every register 0; MB and VB as they were. -/
def execReset (s : State) : Outcome := .next s.clearRegisters

/-- CLR_ERR, code 0x02 (R233): FIRSTERR and STATUS.ERR are 0. -/
def execClrErr (s : State) : Outcome := done { s with firstCode := 0, firstOp := 0 }

/-- MSG_END, code 0x03 (R234): TXLEN records CUR in ENC mode; MODE is IDLE; refused in IDLE mode. -/
def execMsgEnd (s : State) : Outcome :=
  match s.mode with
  | .idle => raiseRefusal opMsgEnd .seq s
  | .enc => done { s with txLen := s.cur, mode := .idle }
  | .dec => done { s with mode := .idle }

/-- An undefined code (R111, R235): refused with E_OPCODE; FIRSTERR.OP is the code written. -/
def execCmdUndefined (op : Byte) (s : State) : Outcome := raiseRefusal op .opcode s

end Sys2Proof.Machine
end

