-- ==== Sys2Proof/Machine/Dispatch.lean ====
section
/-! DEFINITION. Which meaning an instruction has: one arm per row of spec/opcode_table.json. -/

namespace Sys2Proof.Machine

def exec (i : Instr) (s : State) : Host.Outcome State Fault Refusal :=
  match i with
  -- CMD8
  | .nop => Sys2Proof.Machine.execNop s
  | .reset => Sys2Proof.Machine.execReset s
  | .clrErr => Sys2Proof.Machine.execClrErr s
  | .msgEnd => Sys2Proof.Machine.execMsgEnd s
  | .hdrBuild => Sys2Proof.Machine.execHdrBuild s
  | .hdrEnc => Sys2Proof.Machine.execHdrEnc s
  | .hdrDec => Sys2Proof.Machine.execHdrDec s
  | .attrEnc => Sys2Proof.Machine.execAttrEnc s
  | .attrDec => Sys2Proof.Machine.execAttrDec s
  | .crcRun => Sys2Proof.Machine.execCrcRun s
  | .cmdUndefined op => Sys2Proof.Machine.execCmdUndefined op s
  -- MSGTYPE16
  | .mtLeadingZero rest => Sys2Proof.Machine.execMtLeadingZero rest s
  | .classRequest rest => Sys2Proof.Machine.execClassRequest rest s
  | .classIndication rest => Sys2Proof.Machine.execClassIndication rest s
  | .classSuccessResponse rest => Sys2Proof.Machine.execClassSuccessResponse rest s
  | .classErrorResponse rest => Sys2Proof.Machine.execClassErrorResponse rest s
  | .methodBinding cls => Sys2Proof.Machine.execMethodBinding cls s
  | .bindingRequest => Sys2Proof.Machine.execBindingRequest s
  | .bindingIndication => Sys2Proof.Machine.execBindingIndication s
  | .bindingSuccessResponse => Sys2Proof.Machine.execBindingSuccessResponse s
  | .bindingErrorResponse => Sys2Proof.Machine.execBindingErrorResponse s
  | .mtUnrecognised mt => Sys2Proof.Machine.execMtUnrecognised mt s
  -- ATTRTYPE16
  | .mappedAddress => Sys2Proof.Machine.execMappedAddress s
  | .xorMappedAddress => Sys2Proof.Machine.execXorMappedAddress s
  | .software => Sys2Proof.Machine.execSoftware s
  | .fingerprint => Sys2Proof.Machine.execFingerprint s
  | .generic t => Sys2Proof.Machine.execGeneric t s

end Sys2Proof.Machine
end

