-- ==== Sys2Proof/Machine/HostPort.lean ====
section
/-! DEFINITION. The host port (44_system_and_host.md R240 to R251): what each event does, the pseudo-operations of
30_encoding.md R115 as lists of events, and where a word stands so that the next step runs it. -/

namespace Sys2Proof.Machine

/-- The instruction a write of `v` to CMD executes (R24, R109): the low 8 bits of the data. -/
def commandOf (v : Word) : Instr := decodeCmd (v.setWidth 8)

/-- A register write other than to CMD (R241, R248): no effect where the number names no register. -/
def writeRegister (n : Byte) (v : Word) (s : State) : State :=
  match regOf n with
  | some r => r.write v s
  | none => s

/-- A register read (R242): 0 for CMD and for an undefined number. -/
def readRegister (n : Byte) (s : State) : Word :=
  match regOf n with
  | some r => r.read s
  | none => 0

/-- `WB` (R243): no effect at or beyond MBSIZE. -/
def writeMb (off : Offset) (b : Byte) (s : State) : State :=
  if off.toNat < Config.mbSize then { s with mb := Memory.set s.mb off.toNat b } else s

/-- `RB` (R244): 0 at or beyond MBSIZE. -/
def readMb (off : Offset) (s : State) : Byte := if off.toNat < Config.mbSize then s.mbSpace off.toNat else 0

/-- `WV` (R245). -/
def writeVb (off : Offset) (b : Byte) (s : State) : State :=
  if off.toNat < Config.vbSize then { s with vb := Memory.set s.vb off.toNat b } else s

/-- `RV` (R245). -/
def readVb (off : Offset) (s : State) : Byte := if off.toNat < Config.vbSize then s.vbSpace off.toNat else 0

/-- A hardware reset (R290, R291): every register 0; MB and VB hold unspecified bytes again. Log entry 11. -/
def hardwareReset (s : State) : State := { s.clearRegisters with mb := [], vb := [], epoch := s.epoch + 1 }

/-- What one event does. Only a write to CMD runs an instruction (R70); no other event can fail (R240). -/
def runEvent (e : Event) (s : State) : Outcome :=
  match e with
  | .wr n v => if n = 0x00#8 then exec (commandOf v) s else .next (writeRegister n v s)
  | .rd n => .next { s with reply := .reg (readRegister n s) }
  | .wb off b => .next (writeMb off b s)
  | .rb off => .next { s with reply := .byte (readMb off s) }
  | .wv off b => .next (writeVb off b s)
  | .rv off => .next { s with reply := .byte (readVb off s) }
  | .hwReset => .next (hardwareReset s)

/-- The state an event is applied to: the event has left the port, and the port has answered nothing yet. -/
def takeEvent (rest : List Event) (s : State) : State := { s with port := rest, reply := .none }

/-! ## Pseudo-operations (R115) -/

/-- `WR reg, value` by the register's name. -/
def evWrite (r : Reg) (v : Word) : Event := .wr r.number v

/-- `CMD mnemonic`: a write of a command's code to CMD. -/
def evCommand (op : Byte) : Event := .wr 0x00#8 (op.setWidth 32)

/-- `LDMB off, b0 b1 ...`. -/
def ldmb : Nat → List Byte → List Event
  | _, [] => []
  | off, b :: bs => .wb (BitVec.ofNat 17 off) b :: ldmb (off + 1) bs

/-- `LDVB off, b0 b1 ...`. -/
def ldvb : Nat → List Byte → List Event
  | _, [] => []
  | off, b :: bs => .wv (BitVec.ofNat 17 off) b :: ldvb (off + 1) bs

/-- `LDTID b0 ... b11`. -/
def ldtid (t : Tid) : List Event := List.ofFn fun i => evWrite (.hTid i) ((t.get i).setWidth 32)

/-- `LDEXP b0 ... b11`. -/
def ldexp (t : Tid) : List Event := List.ofFn fun i => evWrite (.expTid i) ((t.get i).setWidth 32)

/-- `DUMP off, n`. -/
def dump : Nat → Nat → List Event
  | _, 0 => []
  | off, n + 1 => .rb (BitVec.ofNat 17 off) :: dump (off + 1) n

/-! ## Where a word stands for the next step (log entry 8) -/

/-- A command code: the host's next operation writes it to CMD. -/
def placeCommand (op : Byte) (s : State) : State := { s with port := evCommand op :: s.port }

/-- A message type: a received header of 20 bytes whose operand words are zeros but for the cookie every message
holds (R93), and a HDR_DEC of it on the port. -/
def placeMsgType (mt : Half) (s : State) : State :=
  { s with
    mb := Memory.setBytes s.mb 0 (bytesOfHalf mt ++ zeros 2 ++ beBytes 4 cookie.toNat ++ zeros 12)
    rxLen := 20
    port := evCommand opHdrDec :: s.port }

/-- An attribute type: a decode in progress of a section that holds one attribute of length 0, and an ATTR_DEC of it
on the port. -/
def placeAttrType (t : Half) (s : State) : State :=
  { s with
    mb := Memory.setBytes s.mb 20 (bytesOfHalf t ++ zeros 2)
    mode := .dec
    cur := 20
    endOff := 24
    hLen := 4
    port := evCommand opAttrDec :: s.port }

/-- A word of the table, where the next step reads it. -/
def placeWord (s : State) (nbits w : Nat) : State :=
  if nbits = 8 then placeCommand (BitVec.ofNat 8 w) s
  else if nbits = 16 then
    if tableSlot (BitVec.ofNat 16 w) = .attrType then placeAttrType (BitVec.ofNat 16 w) s
    else placeMsgType (BitVec.ofNat 16 w) s
  else s

end Sys2Proof.Machine
end

