-- ==== Sys2Proof/Machine/Message.lean ====
section
/-! DEFINITION. The message-level functions of 42_attribute_codec.md R187 to R189, over which its laws are stated:
abstract attribute values, EncodeMessage, DecodeMessage, and the host programs that produce and observe them. -/

namespace Sys2Proof.Machine

/-- R187: an abstract attribute value. An address is absent when the family is not 1 (R179). -/
inductive AttrValue where
  | mapped (family : Byte) (port : Half) (addr : Option Word)
  | xorMapped (family : Byte) (port : Half) (addr : Option Word)
  | software (text : List Byte)
  | fingerprint
  | generic (t : Half) (l : Nat)
  deriving DecidableEq, Repr

/-- R187: the values the encoder takes. -/
def encodable : AttrValue → Bool
  | .mapped f _ a => f == familyIPv4 && a.isSome
  | .xorMapped f _ a => f == familyIPv4 && a.isSome
  | .software text => decide (text.length ≤ Config.vbSize)
  | .fingerprint => true
  | .generic _ _ => false

/-- The operand registers the host loads for a value (R294). -/
def recordOf : AttrValue → AttrRecord
  | .mapped f p a => { AttrRecord.zero with typ := typeMappedAddress, family := f, port := p, addr := a.getD 0 }
  | .xorMapped f p a => { AttrRecord.zero with typ := typeXorMappedAddress, family := f, port := p, addr := a.getD 0 }
  | .software text => { AttrRecord.zero with typ := typeSoftware, len := BitVec.ofNat 16 text.length }
  | .fingerprint => { AttrRecord.zero with typ := typeFingerprint }
  | .generic t l => { AttrRecord.zero with typ := t, len := BitVec.ofNat 16 l }

/-- The bytes the host loads into VB for a value. -/
def textOf : AttrValue → List Byte
  | .software text => text
  | .mapped _ _ _ => []
  | .xorMapped _ _ _ => []
  | .fingerprint => []
  | .generic _ _ => []

/-- A byte sequence as a space: its bytes first, then `rest`. -/
def overlay (bs : List Byte) (rest : Space) : Space := fun a => (bs[a]?).getD (rest a)

/-- A message with its section length rewritten (R164). -/
def setLength (b : List Byte) (len : Nat) : List Byte := b.take 2 ++ beBytes 2 len ++ b.drop 4

/-- One value appended to a message (R165, R188): the length first, then the ATTR record. -/
def appendValue (b : List Byte) (a : AttrValue) : List Byte :=
  let r := recordOf a
  let k := kindOf r.typ
  let l := valueLength k r
  let b1 := setLength b (b.length - 20 + wireSize l)
  b1 ++ attrBytes r.typ l (encodeValue k (overlay b1 (fun _ => 0)) (overlay (textOf a) (fun _ => 0)) b.length l r).2

/-- R188 `EncodeMessage(c, m, tid, [a1..aN])`. -/
def encodeMessage (cls method : Half) (tid : Tid) (as : List AttrValue) : List Byte :=
  as.foldl appendValue (encodeHeader cls method 0 tid)

/-- The abstract value of a decoded attribute. -/
def valueOf (d : Decoded) : AttrValue :=
  let r := d.record
  match r.kind with
  | .generic => .generic r.typ r.len.toNat
  | .mapped => .mapped r.family r.port (if r.addrLen = 4 then some r.addr else none)
  | .xorMapped => .xorMapped r.family r.port (if r.addrLen = 4 then some r.addr else none)
  | .software => .software d.text
  | .fingerprint => .fingerprint

/-- The walk of R175 from offset `o` to `stop`, at most `fuel` attributes. -/
def decodeAttrs (B : Space) (stop : Nat) : Nat → Nat → Except ErrCode (List Decoded)
  | 0, _ => .ok []
  | fuel + 1, o =>
    if stop ≤ o then .ok []
    else
      let d := decodeAttrAt B o stop
      match d.err with
      | some e => .error e
      | none => (decodeAttrs B stop fuel (o + wireSize (attrLength B o))).map (fun ds => d :: ds)

/-- R189 `DecodeMessage(B, n, tidchk, exp)`; a section of `len` bytes holds at most `len / 4` attributes (R175). -/
def decodeMessage (B : Space) (n : Nat) (tidchk : Bool) (exp : Tid) : Except ErrCode (Header × List AttrValue) :=
  match decodeHeader B n tidchk exp with
  | .error e => .error e
  | .ok h =>
    match decodeAttrs B (20 + h.len.toNat) (h.len.toNat / 4) 20 with
    | .error e => .error e
    | .ok ds => .ok (h, ds.map valueOf)

/-! ## The host programs (R188, R189, R294, R295) -/

/-- What the host does to append one value: load VB and the operand registers, then ATTR_ENC. -/
def appendProgram (a : AttrValue) : List Event :=
  let r := recordOf a
  ldvb 0 (textOf a) ++
  [evWrite .aType (r.typ.setWidth 32), evWrite .aLen (r.len.setWidth 32), evWrite .aFamily (r.family.setWidth 32),
   evWrite .aPort (r.port.setWidth 32), evWrite .aAddr r.addr, evCommand opAttrEnc]

/-- R188: the host program whose result in MB is EncodeMessage. -/
def encodeProgram (cls method : Half) (tid : Tid) (as : List AttrValue) : List Event :=
  [evWrite .hClass (cls.setWidth 32), evWrite .hMethod (method.setWidth 32)] ++ ldtid tid ++ [evCommand opHdrEnc] ++
  as.flatMap appendProgram

/-- The ATTR_DEC commands of R189: issued while MORE reads 1, the record and VB read after each; the code that stopped
them, or the attributes. -/
def observeAttrs : Nat → State → Except Byte (List Decoded)
  | 0, _ => .ok []
  | fuel + 1, s =>
    if s.more then
      match exec .attrDec s with
      | .next t =>
        if t.err = 0 then
          let text := if t.attr.kind = .software then slice t.vbSpace 0 t.attr.len.toNat else []
          (observeAttrs fuel t).map (fun ds => { record := t.attr, text := text, err := none } :: ds)
        else .error t.err
      | _ => .error 0
    else .ok []

/-- R189: what the host observes of the message in MB: HDR_DEC, then the attributes; the code of the command that
failed, or the header registers and the attribute values. -/
def observeMessage (s : State) : Except Byte (Header × List AttrValue) :=
  match exec .hdrDec s with
  | .next t =>
    if t.err = 0 then
      (observeAttrs (t.hLen.toNat / 4) t).map fun ds =>
        ({ cls := t.hClass, method := t.hMethod, len := t.hLen, tid := t.hTid }, ds.map valueOf)
    else .error t.err
  | _ => .error 0

end Sys2Proof.Machine
end

