-- ==== Sys2Proof/Safety.lean ====
section
/-! DEFINITION. What counts as a safe run, in the terms the claims use: the invariant of the machine, the frame of an
operation as the host can see it, and a host program run from reset. -/

namespace Sys2Proof.Machine

/-! ## The invariant -/

/-- What holds in every state a run reaches. -/
structure State.Inv (s : State) : Prop where
  /-- Both buffers keep their canonical form. -/
  mbWf : Memory.wf Config.mbSize s.mb = true
  vbWf : Memory.wf Config.vbSize s.vb = true
  /-- R260: codes 13 to 255 never occur, in STATUS.ERR or in FIRSTERR.CODE. -/
  errCode : s.err.toNat ≤ 12
  firstErrCode : s.firstCode.toNat ≤ 12
  /-- R28: without a recorded failure FIRSTERR is 0 as a whole. -/
  firstErrOp : s.firstCode = 0 → s.firstOp = 0
  /-- R46: A_ADDRLEN is 0 or 4. -/
  addrLen : s.attr.addrLen = 0 ∨ s.attr.addrLen = 4
  /-- R49: A_VOFF is 4 above A_OFF once an attribute has been coded; before, both are 0. -/
  voff : (s.attr.off = 0 ∧ s.attr.voff = 0) ∨ s.attr.voff.toNat = s.attr.off.toNat + 4
  /-- R36: the declared section length is a multiple of 4. -/
  hLen : s.hLen.toNat % 4 = 0
  /-- R33: with a message in progress the cursor lies in MB, 4-byte aligned. -/
  cursor : s.mode ≠ .idle → 20 ≤ s.cur.toNat ∧ s.cur.toNat ≤ Config.mbSize ∧ (s.cur.toNat - 20) % 4 = 0
  /-- R33: in ENC mode the declared length is what has been appended. -/
  encLen : s.mode = .enc → s.hLen.toNat = s.cur.toNat - 20
  /-- R31, R33: in DEC mode the section ends at END = 20 + H_LEN, inside MB, not before the cursor. -/
  decEnd : s.mode = .dec →
    s.cur.toNat ≤ s.endOff.toNat ∧ s.endOff.toNat ≤ Config.mbSize ∧ s.endOff.toNat = 20 + s.hLen.toNat

/-! ## Frames, as the host can see them -/

/-- Every register but the listed ones reads as before. -/
def KeepsRegs (but : List Reg) (s t : State) : Prop := ∀ r, r ∉ but → r.read t = r.read s

/-- Every MB byte outside the offsets `lo` to `hi - 1` reads as before. -/
def KeepsMbOutside (lo hi : Nat) (s t : State) : Prop := ∀ a, a < lo ∨ hi ≤ a → t.mbSpace a = s.mbSpace a

/-- Every VB byte outside the offsets `lo` to `hi - 1` reads as before. -/
def KeepsVbOutside (lo hi : Nat) (s t : State) : Prop := ∀ a, a < lo ∨ hi ≤ a → t.vbSpace a = s.vbSpace a

/-- Every byte of both buffers reads as before. -/
def KeepsBuffers (s t : State) : Prop := (∀ a, t.mbSpace a = s.mbSpace a) ∧ ∀ a, t.vbSpace a = s.vbSpace a

/-- The model's own fields are as before: the pending events, the port's answer, the draws, the hardware resets. -/
def KeepsPort (s t : State) : Prop := t.port = s.port ∧ t.reply = s.reply ∧ t.draws = s.draws ∧ t.epoch = s.epoch

/-- The registers of the attribute record. -/
def attrRegs : List Reg :=
  [.aType, .aLen, .aKind, .aFamily, .aPort, .aAddr, .aAddrLen, .aXport, .aXaddr, .aFp, .aVoff, .aOff]

/-- The registers HDR_DEC writes when it succeeds (R141, R147). -/
def headerRegs : List Reg :=
  [.status, .hClass, .hMethod, .hLen, .cur, .endOff] ++ List.ofFn Reg.hTid

/-- What a failure of command `op` with code `e` records (R28, R264): STATUS.ERR, and FIRSTERR unless one stands. -/
def Records (op : Byte) (e : ErrCode) (s t : State) : Prop :=
  t.err = e.toByte ∧
  (s.firstCode = 0 → t.firstErr = op ++ e.toByte) ∧
  (s.firstCode ≠ 0 → t.firstErr = s.firstErr)

/-- A Refusal (R267): the failure is recorded; MODE, every other register, MB and VB are as before. -/
def Refused (op : Byte) (e : ErrCode) (s t : State) : Prop :=
  Records op e s t ∧ t.mode = s.mode ∧ KeepsRegs [.status, .firstErr] s t ∧ KeepsBuffers s t ∧ KeepsPort s t

/-- A successful end (R268): STATUS.ERR is 0, FIRSTERR as before. -/
def Succeeded (s t : State) : Prop := t.err = 0 ∧ t.firstErr = s.firstErr

/-- A ParseError (R266): the failure is recorded, MODE is IDLE. -/
def ParseFailed (op : Byte) (e : ErrCode) (s t : State) : Prop := Records op e s t ∧ t.mode = .idle

/-! ## The conditions under which a command has its effect -/

/-- R131 `HdrOperandsOk`: a class of CLASS_SET and the Binding method. -/
abbrev LegalHeader (c m : Half) : Prop :=
  (c = 0x0000#16 ∨ c = 0x0010#16 ∨ c = 0x0100#16 ∨ c = 0x0110#16) ∧ m = 0x0001#16

/-- R90: the four message types the SCU accepts. -/
abbrev AcceptedType (mt : Half) : Prop := mt = 0x0001#16 ∨ mt = 0x0011#16 ∨ mt = 0x0101#16 ∨ mt = 0x0111#16

/-- R140: the received count a header decode takes. -/
abbrev CountOk (s : State) : Prop := 20 ≤ s.rxLen.toNat ∧ s.rxLen.toNat ≤ Config.mbSize

/-- R143: the magic cookie stands in MB[4..7]. -/
abbrev CookieOk (s : State) : Prop :=
  s.mbSpace 4 = 0x21#8 ∧ s.mbSpace 5 = 0x12#8 ∧ s.mbSpace 6 = 0xA4#8 ∧ s.mbSpace 7 = 0x42#8

/-- R145: the section length is a multiple of 4 and the message fills the received bytes. -/
abbrev LengthOk (s : State) : Prop :=
  (read16 s.mbSpace 2).toNat % 4 = 0 ∧ 20 + (read16 s.mbSpace 2).toNat = s.rxLen.toNat

/-- R146: with CTRL.TIDCHK the identifier is the expected one. -/
abbrev TidOk (s : State) : Prop := s.ctrl.getLsbD 0 = true → ∀ i : Fin 12, s.mbSpace (8 + i.val) = s.expTid.get i

/-- R172, R33: ATTR_DEC has an attribute to decode, and the section lies in MB. -/
abbrev AttrPresent (s : State) : Prop :=
  s.mode = .dec ∧ s.cur.toNat < s.endOff.toNat ∧ 20 ≤ s.cur.toNat ∧ s.cur.toNat + 4 ≤ Config.mbSize ∧
  s.endOff.toNat ≤ Config.mbSize

/-- The length field of the attribute at the cursor (R96). -/
abbrev lengthAtCursor (s : State) : Nat := (read16 s.mbSpace (s.cur.toNat + 2)).toNat

/-- R174: the extent of the attribute at the cursor lies inside the section. -/
abbrev Framed (s : State) : Prop := s.cur.toNat + 4 + padded (lengthAtCursor s) ≤ s.endOff.toNat

/-- What the value at the cursor must hold for a decode as type `t` to pass (R176 to R182): an address of at least 4
bytes, 8 for family 1, with reserved byte 0; a Fingerprint of 4 bytes that match. -/
abbrev ValuePasses (t : Half) (s : State) : Prop :=
  (t = 0x0001#16 ∨ t = 0x0020#16 → 4 ≤ lengthAtCursor s ∧ s.mbSpace (s.cur.toNat + 4) = 0x00#8 ∧
    (s.mbSpace (s.cur.toNat + 5) = 0x01#8 → 8 ≤ lengthAtCursor s)) ∧
  (t = 0x8028#16 → lengthAtCursor s = 4 ∧
    crc32 s.mbSpace 0 s.cur.toNat ^^^ 0x5354554E#32 = read32 s.mbSpace (s.cur.toNat + 4))

/-- R248: the register numbers that name no register, CMD aside. -/
abbrev UndefinedNumber (n : Byte) : Prop :=
  (0x08#8 ≤ n ∧ n ≤ 0x0F#8) ∨ (0x13#8 ≤ n ∧ n ≤ 0x1F#8) ∨ (0x2C#8 ≤ n ∧ n ≤ 0x2F#8) ∨
  (0x3C#8 ≤ n ∧ n ≤ 0x3F#8) ∨ (0x4C#8 ≤ n ∧ n ≤ 0x4F#8) ∨ 0x53#8 ≤ n

/-- What the attribute record holds of every decoded attribute, its variant fields aside (R173). -/
def RecordHeads (t : Half) (s u : State) : Prop :=
  u.attr.typ = t ∧ u.attr.len = read16 s.mbSpace (s.cur.toNat + 2) ∧ u.attr.kind = kindOf t ∧
  u.attr.off = s.cur ∧ u.attr.voff.toNat = s.cur.toNat + 4

/-- No field of a variant is set: every field that RecordHeads does not name reads 0 (R171, R185). -/
def NoVariantFields (u : State) : Prop :=
  u.attr.family = 0#8 ∧ u.attr.port = 0#16 ∧ u.attr.addr = 0#32 ∧ u.attr.addrLen = 0#3 ∧ u.attr.xport = 0#16 ∧
  u.attr.xaddr = 0#32 ∧ u.attr.fp = 0#32

/-- What a successful ATTR_DEC leaves alone, and how it moves the cursor (R173): MODE stays DEC; only STATUS, CUR and
the attribute record change; MB is as before. -/
def Walked (s t : State) : Prop :=
  Succeeded s t ∧ t.mode = .dec ∧ t.cur.toNat = s.cur.toNat + 4 + padded (lengthAtCursor s) ∧
  KeepsRegs ([.status, .cur] ++ attrRegs) s t ∧ (∀ a, t.mbSpace a = s.mbSpace a) ∧ KeepsPort s t

/-- What a failed ATTR_DEC leaves alone (R185): CUR, END, the header registers, MB and VB. -/
def Stopped (e : ErrCode) (s t : State) : Prop :=
  ParseFailed 0x21#8 e s t ∧ KeepsRegs ([.status, .firstErr] ++ attrRegs) s t ∧ KeepsBuffers s t ∧ KeepsPort s t

/-- A word of the message-type place read as an instruction, whole or by one of its parts (R87, R91, R116). -/
abbrev ReadsAs (mt : Half) (i : Instr) : Prop :=
  decodeMsgType mt = i ∨ decodeClass mt = i ∨ decodeLeading mt = .ok i ∨ decodeMethod mt = .ok i

/-- A header decode that committed (R147): the header registers, CUR, END and MODE. -/
def HeaderCommitted (mt : Half) (s t : State) : Prop :=
  Succeeded s t ∧ t.mode = .dec ∧ t.hClass = mt &&& 0x0110#16 ∧ t.hMethod = 0x0001#16 ∧
  t.hLen = read16 s.mbSpace 2 ∧ (∀ i : Fin 12, t.hTid.get i = s.mbSpace (8 + i.val)) ∧
  t.cur.toNat = 20 ∧ t.endOff.toNat = 20 + (read16 s.mbSpace 2).toNat ∧
  KeepsRegs headerRegs s t ∧ KeepsBuffers s t ∧ KeepsPort s t

/-- A header decode that failed (R148): nothing but MODE and the error record changes. -/
def HeaderFailed (e : ErrCode) (s t : State) : Prop :=
  ParseFailed 0x12#8 e s t ∧ KeepsRegs [.status, .firstErr] s t ∧ KeepsBuffers s t ∧ KeepsPort s t

/-- What a successful ATTR_ENC of `n` on-wire bytes does whatever the variant (R164, R165): the cursor and the length
advance, MB[2..3] holds the new length, only the result registers change, and MB changes only at offsets 2, 3 and
CUR to CUR+n-1. -/
def Appended (n : Nat) (s t : State) : Prop :=
  Succeeded s t ∧ t.mode = .enc ∧ t.cur.toNat = s.cur.toNat + n ∧ t.hLen = s.hLen + BitVec.ofNat 16 n ∧
  read16 t.mbSpace 2 = t.hLen ∧ t.attr.off = s.cur ∧ t.attr.voff.toNat = s.cur.toNat + 4 ∧
  KeepsRegs [.status, .cur, .hLen, .aLen, .aKind, .aAddrLen, .aXport, .aXaddr, .aFp, .aVoff, .aOff] s t ∧
  (∀ a, a ≠ 2 → a ≠ 3 → (a < s.cur.toNat ∨ s.cur.toNat + n ≤ a) → t.mbSpace a = s.mbSpace a) ∧
  (∀ a, t.vbSpace a = s.vbSpace a) ∧ KeepsPort s t

/-! ## Instructions by what they do -/

/-- The command code FIRSTERR.OP records when the instruction fails (R28): a message type is HDR_DEC's, an attribute
type ATTR_DEC's. -/
def commandCode : Instr → Byte
  | .nop => 0x00
  | .reset => 0x01
  | .clrErr => 0x02
  | .msgEnd => 0x03
  | .hdrBuild => 0x10
  | .hdrEnc => 0x11
  | .hdrDec => 0x12
  | .attrEnc => 0x20
  | .attrDec => 0x21
  | .crcRun => 0x30
  | .cmdUndefined op => op
  | .mtLeadingZero _ | .classRequest _ | .classIndication _ | .classSuccessResponse _ | .classErrorResponse _
  | .methodBinding _ | .bindingRequest | .bindingIndication | .bindingSuccessResponse | .bindingErrorResponse
  | .mtUnrecognised _ => 0x12
  | .mappedAddress | .xorMappedAddress | .software | .fingerprint | .generic _ => 0x21

/-! ## Runs -/

/-- A host program at the port of a machine just reset. -/
def startWith (program : List Event) : State := { State.reset with port := program }

end Sys2Proof.Machine
end

