-- ==== Sys2Proof/Certificates/Slice0/Obligations.lean ====
section
/-! DEFINITION. The statements about the SCU. Each docstring names the rule of spec/ the statement formalises. -/

open Sys2Proof Sys2Proof.Machine

/-! ## Encodings -/

/-- 30_encoding.md R116: what the encoder writes for a well-formed instruction, the decoder of that place reads back,
with every operand, and leaves the bytes that follow. -/
def Obligations.DecodeReadsBackEncode : Prop :=
  ∀ (i : Instr) (rest : List Byte), i.wf = true → decode (slotOf i) (encode i ++ rest) = .ok (i, rest)

/-- 30_encoding.md R116: the other direction: an instruction the decoder reads at a place is well-formed, belongs to
that place, and its encoding followed by the bytes left over is exactly the bytes that were read. -/
def Obligations.EncodeReadsBackDecode : Prop :=
  ∀ (p : Slot) (bs rest : List Byte) (i : Instr), decode p bs = .ok (i, rest) →
    i.wf = true ∧ slotOf i = p ∧ encode i ++ rest = bs

/-- Words written out from R110, R90 and R100 decode to the instructions they stand for. -/
def Obligations.WordsOfTheTableDecode : Prop :=
  decodeTableWord 8 0x00 = some .nop ∧ decodeTableWord 8 0x12 = some .hdrDec ∧ decodeTableWord 8 0x21 = some .attrDec ∧
  decodeTableWord 8 0x30 = some .crcRun ∧ decodeTableWord 8 0x13 = some (.cmdUndefined 0x13#8) ∧
  decodeTableWord 16 0x0101 = some .bindingSuccessResponse ∧ decodeTableWord 16 0x0020 = some .xorMappedAddress ∧
  decodeTableWord 16 0x8022 = some .software ∧ decodeTableWord 16 0x8028 = some .fingerprint

/-- 41_header_codec.md R149 (the bit-packing law), with the sets R9 gives: the message type the header encoder writes for
a class and a method is their OR; the masks of the decoder, its class row, its method row and a header decode each give
both back; no two pairs share a message type. It is said of every method pattern without a class bit, the members of
METHOD_SET among them; with those the message types are the four of R90. -/
def Obligations.MasksSeparateClassAndMethod : Prop :=
  (∀ c m : Half, c ∈ Config.classSet ∧ m ∈ Config.methodSet ↔ LegalHeader c m) ∧
  (∀ mt : Half, AcceptedType mt ↔ ∃ c ∈ Config.classSet, ∃ m ∈ Config.methodSet, mt = m ||| c) ∧
  ∀ c m : Half, c ∈ Config.classSet → m &&& 0x0110#16 = 0#16 →
    ∀ (len : Half) (tid : Tid) (rest : Space) (mt : Half), mt = read16 (overlay (encodeHeader c m len tid) rest) 0 →
      mt = m ||| c ∧ mt &&& classMask = c ∧ mt &&& methodMask = m ∧
      (c = 0x0000#16 → decodeClass mt = .classRequest m) ∧
      (c = 0x0010#16 → decodeClass mt = .classIndication m) ∧
      (c = 0x0100#16 → decodeClass mt = .classSuccessResponse m) ∧
      (c = 0x0110#16 → decodeClass mt = .classErrorResponse m) ∧
      (m = 0x0001#16 → decodeMethod mt = .ok (.methodBinding c)) ∧
      (∀ (B : Space) (n : Nat) (tidchk : Bool) (exp : Tid) (h : Header),
        decodeHeaderAs mt B n tidchk exp = .ok h → h.cls = c ∧ h.method = m) ∧
      ∀ c' m' : Half, c' ∈ Config.classSet → m' &&& 0x0110#16 = 0#16 →
        ∀ (len' : Half) (tid' : Tid) (rest' : Space),
          read16 (overlay (encodeHeader c' m' len' tid') rest') 0 = mt → c' = c ∧ m' = m

/-- Log entry 6: whichever row of the table a message type is read as, whole or by a part, it means the same header
decode: HDR_DEC with that word as message type. -/
def Obligations.EveryReadingOfAMessageTypeAgrees : Prop :=
  ∀ (mt : Half) (i j : Instr), ReadsAs mt i → ReadsAs mt j → ∀ s : State, exec i s = exec j s

/-! ## Steps -/

/-- 10_state.md R24: a write of `v` to CMD executes the command whose code is the low 8 bits of `v`, before the next
operation of the host; 60_exceptions.md R272: with no event pending, nothing changes. -/
def Obligations.StepRunsTheCommandWritten : Prop :=
  (∀ (s : State) (v : Word) (rest : List Event) (i : Instr), s.port = .wr 0x00#8 v :: rest →
    decode .command [v.setWidth 8] = .ok (i, []) →
    step s = exec i { s with port := rest, reply := .none }) ∧
  (∀ s : State, s.port = [] → step s = .next s)

/-- Log entry 6: HDR_DEC runs the message type that stands in MB[0..1], ATTR_DEC the attribute type at CUR, as the
decoder reads them. -/
def Obligations.DecodeCommandsRunTheReceivedWord : Prop :=
  ∀ (s : State) (i : Instr) (rest : List Byte),
    (decode .msgType (s.mbSpace 0 :: s.mbSpace 1 :: rest) = .ok (i, rest) → exec .hdrDec s = exec i s) ∧
    (decode .attrType (s.mbSpace s.cur.toNat :: s.mbSpace (s.cur.toNat + 1) :: rest) = .ok (i, rest) →
      exec .attrDec s = exec i s)

/-! ## Reset and the invariant -/

/-- 44_system_and_host.md R232, 70_reset_and_hazards.md R290, R292: a hardware reset and the RESET command put every
register at 0; RESET leaves MB and VB as they were. That a hardware reset is an event at the port and keeps the events
after it is log entry 11; that RESET keeps the model's own fields is log entry 4. -/
def Obligations.ResetZeroesEveryRegister : Prop :=
  (∀ r : Reg, r.read State.reset = 0#32) ∧
  (∀ (s : State) (rest : List Event), ∃ t, step { s with port := .hwReset :: rest } = .next t ∧
    (∀ r : Reg, r.read t = 0#32) ∧ t.port = rest) ∧
  (∀ s : State, ∃ t, exec .reset s = .next t ∧ (∀ r : Reg, r.read t = 0#32) ∧ KeepsBuffers s t ∧ KeepsPort s t)

/-- Log entries 2 and 11, for 70_reset_and_hazards.md R291: after a hardware reset every byte of both buffers is a free
value of that reset, and no draw of RND is consumed. -/
def Obligations.HardwareResetLeavesTheBuffersUnspecified : Prop :=
  ∀ (s : State) (rest : List Event), ∃ t, step { s with port := .hwReset :: rest } = .next t ∧
    (∀ a, t.mbSpace a = Config.mbUnwritten (s.epoch + 1) a) ∧ (∀ a, t.vbSpace a = Config.vbUnwritten (s.epoch + 1) a) ∧
    t.epoch = s.epoch + 1 ∧ t.draws = s.draws

/-- The invariant holds right after reset. -/
def Obligations.ResetMeetsTheInvariant : Prop := State.reset.Inv

/-- 10_state.md R33, R36, R46, R49, 60_exceptions.md R260: every step keeps the invariant. -/
def Obligations.EveryStepKeepsTheInvariant : Prop := ∀ s t : State, s.Inv → step s = .next t → t.Inv

/-- 60_exceptions.md R269: from every state of the invariant every step answers a next state: no fault, no refusal. -/
def Obligations.NoStepStopsUnderTheInvariant : Prop := ∀ s : State, s.Inv → ∃ t, step s = .next t

/-- 70_reset_and_hazards.md R294: whatever the host does from reset on, for as long as it likes, the machine goes on
and the invariant holds. -/
def Obligations.EveryHostProgramRuns : Prop :=
  ∀ (program : List Event) (k : Nat), ∃ t, Sys2Proof.core.run k (startWith program) = .next t ∧ State.Inv t

/-- 42_attribute_codec.md R190: in ENC mode the length field in MB is H_LEN; every event keeps that but a host write
to MB[2] or MB[3]. -/
def Obligations.LengthFieldFollowsHLen : Prop :=
  ∀ (s t : State) (e : Event) (rest : List Event), s.port = e :: rest →
    (∀ off b, e = .wb off b → off.toNat ≠ 2 ∧ off.toNat ≠ 3) →
    (s.mode = .enc → read16 s.mbSpace 2 = s.hLen) → step s = .next t →
    (t.mode = .enc → read16 t.mbSpace 2 = t.hLen)

/-! ## Rules of the whole machine -/

/-- 10_state.md R28: the first failure stands: while FIRSTERR.CODE is not 0 no failing command changes it; while it is
0, a failing command records its result code and its command code; a command that succeeds leaves it, but CLR_ERR and
RESET write it to 0. -/
def Obligations.FirstFailureStands : Prop :=
  ∀ (op : Byte) (s t : State), exec (decodeCmd op) s = .next t →
    (s.firstCode ≠ 0#8 → t.err ≠ 0#8 → t.firstErr = s.firstErr) ∧
    (s.firstCode = 0#8 → t.err ≠ 0#8 → t.firstErr = op ++ t.err) ∧
    (t.err = 0#8 → op ≠ 0x01#8 → op ≠ 0x02#8 → t.firstErr = s.firstErr) ∧
    (op = 0x01#8 ∨ op = 0x02#8 → t.firstErr = 0#16)

/-- 60_exceptions.md R267: a command that ends with a Refusal (codes 8 to 12) records it, under the first-wins rule and
with the code written to CMD, and changes nothing else. -/
def Obligations.RefusalsChangeNothing : Prop :=
  ∀ (op : Byte) (s t : State), exec (decodeCmd op) s = .next t → 8 ≤ t.err.toNat → ∃ e : ErrCode, Refused op e s t

/-- 30_encoding.md R113: the transitions of MODE, for every command code, and for a hardware reset. -/
def Obligations.ModeTransitions : Prop :=
  (∀ (op : Byte) (s t : State), exec (decodeCmd op) s = .next t →
    (op = 0x01#8 → t.mode = .idle) ∧
    (op = 0x10#8 → (t.err = 0#8 → t.mode = .idle) ∧ (t.err ≠ 0#8 → t.mode = s.mode)) ∧
    (op = 0x11#8 → (t.err = 0#8 → t.mode = .enc) ∧ (t.err ≠ 0#8 → t.mode = s.mode)) ∧
    (op = 0x12#8 → (t.err = 0#8 → t.mode = .dec) ∧ (t.err ≠ 0#8 → t.mode = .idle)) ∧
    (op = 0x20#8 → t.mode = s.mode ∧ (t.err = 0#8 → s.mode = .enc)) ∧
    (op = 0x21#8 → (t.err = 0#8 → s.mode = .dec ∧ t.mode = .dec) ∧
      (t.err ≠ 0#8 → t.err.toNat < 8 → s.mode = .dec ∧ t.mode = .idle) ∧ (8 ≤ t.err.toNat → t.mode = s.mode)) ∧
    (op = 0x03#8 → (t.err = 0#8 → s.mode ≠ .idle ∧ t.mode = .idle) ∧ (t.err ≠ 0#8 → t.mode = s.mode)) ∧
    (op ∉ [0x01#8, 0x10#8, 0x11#8, 0x12#8, 0x20#8, 0x21#8, 0x03#8] → t.mode = s.mode)) ∧
  (∀ (s t : State) (rest : List Event), step { s with port := .hwReset :: rest } = .next t → t.mode = .idle)

/-- 10_state.md R22, the column "written by", RESET aside: a register that an instruction changes is one that its
command writes; CTRL, RXLEN, EXP_TID, CRC_START and CRC_END no command changes. Every command writes STATUS. -/
def Obligations.OnlyTheirCommandsWriteRegisters : Prop :=
  ∀ (i : Instr) (s t : State), i.wf = true → exec i s = .next t → i ≠ .reset →
    (t.ctrl = s.ctrl ∧ t.rxLen = s.rxLen ∧ t.expTid = s.expTid ∧ t.crcStart = s.crcStart ∧ t.crcEnd = s.crcEnd) ∧
    (t.firstErr ≠ s.firstErr → t.err ≠ 0#8 ∨ i = .clrErr) ∧
    (t.txLen ≠ s.txLen → i = .hdrEnc ∨ i = .msgEnd) ∧
    (t.cur ≠ s.cur → i = .hdrEnc ∨ i = .attrEnc ∨ commandCode i = 0x12#8 ∨ commandCode i = 0x21#8) ∧
    (t.endOff ≠ s.endOff → commandCode i = 0x12#8) ∧
    (t.hClass ≠ s.hClass ∨ t.hMethod ≠ s.hMethod → commandCode i = 0x12#8) ∧
    (t.hLen ≠ s.hLen → i = .hdrBuild ∨ i = .hdrEnc ∨ i = .attrEnc ∨ commandCode i = 0x12#8) ∧
    (t.hTid ≠ s.hTid → (i = .hdrBuild ∧ s.ctrl.getLsbD 1 = true) ∨ commandCode i = 0x12#8) ∧
    (t.attr.typ ≠ s.attr.typ ∨ t.attr.family ≠ s.attr.family ∨ t.attr.port ≠ s.attr.port ∨ t.attr.addr ≠ s.attr.addr →
      commandCode i = 0x21#8) ∧
    (t.attr ≠ s.attr → i = .attrEnc ∨ commandCode i = 0x21#8) ∧
    (t.crcRes ≠ s.crcRes → i = .crcRun)

/-- 10_state.md R51: which commands write the buffers: MB only HDR_ENC and ATTR_ENC, VB only ATTR_DEC of a Software
attribute. -/
def Obligations.OnlyTheirCommandsWriteBuffers : Prop :=
  ∀ (i : Instr) (s t : State), i.wf = true → exec i s = .next t →
    ((∃ a, t.mbSpace a ≠ s.mbSpace a) → i = .hdrEnc ∨ i = .attrEnc) ∧
    ((∃ a, t.vbSpace a ≠ s.vbSpace a) → commandCode i = 0x21#8 ∧ t.attr.kind = .software)

/-! ## System commands -/

/-- 44_system_and_host.md R231. -/
def Obligations.NopClearsErrOnly : Prop :=
  ∀ s : State, ∃ t, exec .nop s = .next t ∧ Succeeded s t ∧ t.mode = s.mode ∧ KeepsRegs [.status] s t ∧
    KeepsBuffers s t ∧ KeepsPort s t

/-- 44_system_and_host.md R233. -/
def Obligations.ClrErrClearsTheErrorRecord : Prop :=
  ∀ s : State, ∃ t, exec .clrErr s = .next t ∧ t.err = 0#8 ∧ t.firstErr = 0#16 ∧ t.mode = s.mode ∧
    KeepsRegs [.status, .firstErr] s t ∧ KeepsBuffers s t ∧ KeepsPort s t

/-- 44_system_and_host.md R234. -/
def Obligations.MsgEndSealsTheMessage : Prop :=
  ∀ s : State, ∃ t, exec .msgEnd s = .next t ∧ KeepsBuffers s t ∧ KeepsPort s t ∧
    (s.mode = .idle → Refused 0x03#8 .seq s t) ∧
    (s.mode = .enc → Succeeded s t ∧ t.mode = .idle ∧ t.txLen = s.cur ∧ KeepsRegs [.status, .txLen] s t) ∧
    (s.mode = .dec → Succeeded s t ∧ t.mode = .idle ∧ KeepsRegs [.status] s t)

/-- 44_system_and_host.md R235: a value whose low 8 bits are none of the ten codes of 30_encoding.md R110 is refused
with E_OPCODE, and FIRSTERR.OP is the code written. The instruction of an undefined code is refused whatever its code. -/
def Obligations.UndefinedCodesAreRefused : Prop :=
  (∀ (v : Word) (s : State),
    v.setWidth 8 ∉ [0x00#8, 0x01#8, 0x02#8, 0x03#8, 0x10#8, 0x11#8, 0x12#8, 0x20#8, 0x21#8, 0x30#8] →
    ∃ t, exec (commandOf v) s = .next t ∧ Refused (v.setWidth 8) .opcode s t) ∧
  (∀ (op : Byte) (s : State), ∃ t, exec (.cmdUndefined op) s = .next t ∧ Refused op .opcode s t)

/-! ## Header codec -/

/-- 41_header_codec.md R132: HDR_BUILD of operands that R131 allows: with TIDGEN the identifier is the draw of RND, its
first byte the most significant (R133); without, H_TID stays. Other operands are refused with E_OPERAND. The draw's
value is a free value, and the counter of draws is the model's own (log entry 3). -/
def Obligations.HdrBuildPreparesAHeader : Prop :=
  ∀ s : State,
    (LegalHeader s.hClass s.hMethod → ∃ t, exec .hdrBuild s = .next t ∧ Succeeded s t ∧ t.mode = .idle ∧
      t.hLen = 0#16 ∧ KeepsBuffers s t ∧ t.port = s.port ∧ t.reply = s.reply ∧ t.epoch = s.epoch ∧
      KeepsRegs ([.status, .hLen] ++ List.ofFn Reg.hTid) s t ∧
      (s.ctrl.getLsbD 1 = false → t.hTid = s.hTid ∧ t.draws = s.draws) ∧
      (s.ctrl.getLsbD 1 = true → t.draws = s.draws + 1 ∧
        ∀ i : Fin 12, (t.hTid.get i).toNat = (Config.rnd s.draws).toNat / 256 ^ (11 - i.val) % 256)) ∧
    (¬ LegalHeader s.hClass s.hMethod → ∃ t, exec .hdrBuild s = .next t ∧ Refused 0x10#8 .operand s t)

/-- 41_header_codec.md R136: HDR_ENC of operands that R131 allows writes the 20 header bytes and opens ENC mode; other
operands are refused with E_OPERAND. -/
def Obligations.HdrEncWritesTheHeader : Prop :=
  ∀ s : State,
    (LegalHeader s.hClass s.hMethod → ∃ t, exec .hdrEnc s = .next t ∧ Succeeded s t ∧ t.mode = .enc ∧
      read16 t.mbSpace 0 = s.hMethod ||| s.hClass ∧ read16 t.mbSpace 2 = 0#16 ∧ CookieOk t ∧
      (∀ i : Fin 12, t.mbSpace (8 + i.val) = s.hTid.get i) ∧
      t.hLen = 0#16 ∧ t.cur.toNat = 20 ∧ t.txLen = 0#17 ∧
      KeepsRegs [.status, .hLen, .cur, .txLen] s t ∧ KeepsMbOutside 0 20 s t ∧ (∀ a, t.vbSpace a = s.vbSpace a) ∧
      KeepsPort s t) ∧
    (¬ LegalHeader s.hClass s.hMethod → ∃ t, exec .hdrEnc s = .next t ∧ Refused 0x11#8 .operand s t)

/-- 41_header_codec.md R140 to R143, R145 to R148 (with R144's check): HDR_DEC commits the header registers, CUR and END
when every check passes; the first check that fails gives its code, and then nothing but MODE and the error record
changes and ATTR_DEC is refused. -/
def Obligations.HdrDecCommitsOrFailsByItsFirstFailingCheck : Prop :=
  ∀ s : State, ∃ t, exec .hdrDec s = .next t ∧
    (CountOk s → AcceptedType (read16 s.mbSpace 0) → CookieOk s → LengthOk s → TidOk s →
      HeaderCommitted (read16 s.mbSpace 0) s t) ∧
    (¬ CountOk s → HeaderFailed .length s t) ∧
    (CountOk s → 0x40 ≤ (s.mbSpace 0).toNat → HeaderFailed .leadBits s t) ∧
    (CountOk s → (s.mbSpace 0).toNat < 0x40 → ¬ CookieOk s → HeaderFailed .cookie s t) ∧
    (CountOk s → (s.mbSpace 0).toNat < 0x40 → CookieOk s → read16 s.mbSpace 0 &&& 0xFEEF#16 ≠ 0x0001#16 →
      HeaderFailed .type s t) ∧
    (CountOk s → AcceptedType (read16 s.mbSpace 0) → CookieOk s → ¬ LengthOk s → HeaderFailed .length s t) ∧
    (CountOk s → AcceptedType (read16 s.mbSpace 0) → CookieOk s → LengthOk s → ¬ TidOk s → HeaderFailed .tid s t) ∧
    (t.err ≠ 0#8 → ∃ u, exec .attrDec t = .next u ∧ Refused 0x21#8 .seq t u)

/-- 30_encoding.md R88 to R90: each row of the table that an accepted message type matches (leading bits, class,
method, the whole word) commits the header with the class and method of the word. -/
def Obligations.AcceptedMessageTypesCommit : Prop :=
  ∀ (mt : Half) (i : Instr) (s : State), AcceptedType mt → ReadsAs mt i → CountOk s → CookieOk s → LengthOk s →
    TidOk s → ∃ t, exec i s = .next t ∧ HeaderCommitted mt s t

/-- 41_header_codec.md R142, R144: any other message type fails with E_LEADBITS when bits 15 and 14 are not zero, and
else, after the cookie check, with E_TYPE; so do the rows of its parts. -/
def Obligations.OtherMessageTypesFail : Prop :=
  ∀ (mt : Half) (i : Instr) (s : State), ¬ AcceptedType mt → ReadsAs mt i → CountOk s → ∃ t, exec i s = .next t ∧
    (mt &&& 0xC000#16 ≠ 0#16 → HeaderFailed .leadBits s t) ∧
    (mt &&& 0xC000#16 = 0#16 → ¬ CookieOk s → HeaderFailed .cookie s t) ∧
    (mt &&& 0xC000#16 = 0#16 → CookieOk s → HeaderFailed .type s t)

/-- 41_header_codec.md R150: the header round trip, for every class, method, length and identifier. -/
def Obligations.HeaderRoundTrip : Prop :=
  ∀ (c m len : Half) (tid any : Tid) (rest : Space), LegalHeader c m → len.toNat % 4 = 0 →
    20 + len.toNat ≤ Config.mbSize →
    decodeHeader (overlay (encodeHeader c m len tid) rest) (20 + len.toNat) false any =
      .ok { cls := c, method := m, len := len, tid := tid }

/-! ## Attribute codec, encode -/

/-- 42_attribute_codec.md R165: the refusals of ATTR_ENC, in their order. -/
def Obligations.AttrEncRefusesInOrder : Prop :=
  ∀ s : State,
    (s.mode ≠ .enc → ∃ t, exec .attrEnc s = .next t ∧ Refused 0x20#8 .seq s t) ∧
    (s.mode = .enc → kindOf s.attr.typ = .generic → ∃ t, exec .attrEnc s = .next t ∧ Refused 0x20#8 .unsupp s t) ∧
    (s.mode = .enc → (s.attr.typ = 0x0001#16 ∨ s.attr.typ = 0x0020#16) → s.attr.family ≠ 1#8 →
      ∃ t, exec .attrEnc s = .next t ∧ Refused 0x20#8 .unsupp s t) ∧
    (s.mode = .enc → kindOf s.attr.typ ≠ .generic →
      (s.attr.typ = 0x0001#16 ∨ s.attr.typ = 0x0020#16 → s.attr.family = 1#8) →
      Config.mbSize < s.cur.toNat + 4 + padded (valueLength (kindOf s.attr.typ) s.attr) →
      ∃ t, exec .attrEnc s = .next t ∧ Refused 0x20#8 .overflow s t)

/-- 42_attribute_codec.md R166: ATTR_ENC of a MappedAddress. -/
def Obligations.AttrEncMappedAddress : Prop :=
  ∀ s : State, s.mode = .enc → s.attr.typ = 0x0001#16 → s.attr.family = 1#8 → 20 ≤ s.cur.toNat →
    s.cur.toNat + 12 ≤ Config.mbSize → ∃ t, exec .attrEnc s = .next t ∧ Appended 12 s t ∧
      read16 t.mbSpace s.cur.toNat = 0x0001#16 ∧ read16 t.mbSpace (s.cur.toNat + 2) = 8#16 ∧
      t.mbSpace (s.cur.toNat + 4) = 0x00#8 ∧ t.mbSpace (s.cur.toNat + 5) = 0x01#8 ∧
      read16 t.mbSpace (s.cur.toNat + 6) = s.attr.port ∧ read32 t.mbSpace (s.cur.toNat + 8) = s.attr.addr ∧
      t.attr.len = 8#16 ∧ t.attr.kind = .mapped ∧ t.attr.addrLen = 4#3 ∧ t.attr.xport = 0#16 ∧ t.attr.xaddr = 0#32 ∧
      t.attr.fp = 0#32

/-- 42_attribute_codec.md R167: ATTR_ENC of a XorMappedAddress. -/
def Obligations.AttrEncXorMappedAddress : Prop :=
  ∀ s : State, s.mode = .enc → s.attr.typ = 0x0020#16 → s.attr.family = 1#8 → 20 ≤ s.cur.toNat →
    s.cur.toNat + 12 ≤ Config.mbSize → ∃ t, exec .attrEnc s = .next t ∧ Appended 12 s t ∧
      read16 t.mbSpace s.cur.toNat = 0x0020#16 ∧ read16 t.mbSpace (s.cur.toNat + 2) = 8#16 ∧
      t.mbSpace (s.cur.toNat + 4) = 0x00#8 ∧ t.mbSpace (s.cur.toNat + 5) = 0x01#8 ∧
      read16 t.mbSpace (s.cur.toNat + 6) = s.attr.port ^^^ 0x2112#16 ∧
      read32 t.mbSpace (s.cur.toNat + 8) = s.attr.addr ^^^ 0x2112A442#32 ∧
      t.attr.len = 8#16 ∧ t.attr.kind = .xorMapped ∧ t.attr.addrLen = 4#3 ∧
      t.attr.xport = s.attr.port ^^^ 0x2112#16 ∧ t.attr.xaddr = s.attr.addr ^^^ 0x2112A442#32 ∧ t.attr.fp = 0#32

/-- 42_attribute_codec.md R168: ATTR_ENC of a Software text of A_LEN bytes; A_LEN 0 is legal; the padding bytes are
zero (R97). -/
def Obligations.AttrEncSoftware : Prop :=
  ∀ s : State, s.mode = .enc → s.attr.typ = 0x8022#16 → 20 ≤ s.cur.toNat →
    s.cur.toNat + 4 + padded s.attr.len.toNat ≤ Config.mbSize →
    ∃ t, exec .attrEnc s = .next t ∧ Appended (4 + padded s.attr.len.toNat) s t ∧
      read16 t.mbSpace s.cur.toNat = 0x8022#16 ∧ read16 t.mbSpace (s.cur.toNat + 2) = s.attr.len ∧
      (∀ k, k < s.attr.len.toNat → t.mbSpace (s.cur.toNat + 4 + k) = s.vbSpace k) ∧
      (∀ k, s.attr.len.toNat ≤ k → k < padded s.attr.len.toNat → t.mbSpace (s.cur.toNat + 4 + k) = 0x00#8) ∧
      t.attr.len = s.attr.len ∧ t.attr.kind = .software ∧ t.attr.addrLen = 0#3 ∧ t.attr.xport = 0#16 ∧
      t.attr.xaddr = 0#32 ∧ t.attr.fp = 0#32

/-- 42_attribute_codec.md R169: ATTR_ENC of a Fingerprint: the CRC of the bytes before it, with the section length
already counting it, XOR 0x5354554E. -/
def Obligations.AttrEncFingerprint : Prop :=
  ∀ s : State, s.mode = .enc → s.attr.typ = 0x8028#16 → 20 ≤ s.cur.toNat → s.cur.toNat + 8 ≤ Config.mbSize →
    ∃ t, exec .attrEnc s = .next t ∧ Appended 8 s t ∧
      read16 t.mbSpace s.cur.toNat = 0x8028#16 ∧ read16 t.mbSpace (s.cur.toNat + 2) = 4#16 ∧
      t.attr.fp = crc32 t.mbSpace 0 s.cur.toNat ^^^ 0x5354554E#32 ∧
      read32 t.mbSpace (s.cur.toNat + 4) = t.attr.fp ∧
      t.attr.len = 4#16 ∧ t.attr.kind = .fingerprint ∧ t.attr.addrLen = 0#3 ∧ t.attr.xport = 0#16 ∧ t.attr.xaddr = 0#32

/-! ## Attribute codec, decode -/

/-- 42_attribute_codec.md R172: without an attribute to decode, ATTR_DEC (and each attribute type) is refused and the
record is left alone. -/
def Obligations.AttrDecNeedsAnAttribute : Prop :=
  ∀ (i : Instr) (s : State), i.wf = true → commandCode i = 0x21#8 → (s.mode ≠ .dec ∨ s.endOff.toNat ≤ s.cur.toNat) →
    ∃ t, exec i s = .next t ∧ Refused 0x21#8 .seq s t

/-- 42_attribute_codec.md R174, R185: an attribute whose extent passes END fails with E_LENGTH; the record holds its
offsets, type, length and kind, every other field 0. -/
def Obligations.AttributeBeyondTheSectionFails : Prop :=
  ∀ (s : State) (t : Half), AttrPresent s → ¬ Framed s → read16 s.mbSpace s.cur.toNat = t →
    ∃ u, exec .attrDec s = .next u ∧ Stopped .length s u ∧ RecordHeads t s u ∧ u.attr.family = 0#8 ∧ u.attr.port = 0#16 ∧
      u.attr.addr = 0#32 ∧ u.attr.addrLen = 0#3 ∧ u.attr.xport = 0#16 ∧ u.attr.xaddr = 0#32 ∧ u.attr.fp = 0#32

/-- 42_attribute_codec.md R176: a MappedAddress of family 1. -/
def Obligations.AttrDecMappedAddress : Prop :=
  ∀ s : State, AttrPresent s → Framed s → read16 s.mbSpace s.cur.toNat = 0x0001#16 → 8 ≤ lengthAtCursor s →
    s.mbSpace (s.cur.toNat + 4) = 0x00#8 → s.mbSpace (s.cur.toNat + 5) = 0x01#8 →
    ∃ t, exec .attrDec s = .next t ∧ Walked s t ∧ RecordHeads 0x0001#16 s t ∧ t.attr.family = 1#8 ∧
      t.attr.port = read16 s.mbSpace (s.cur.toNat + 6) ∧ t.attr.addr = read32 s.mbSpace (s.cur.toNat + 8) ∧
      t.attr.addrLen = 4#3 ∧ t.attr.xport = 0#16 ∧ t.attr.xaddr = 0#32 ∧ t.attr.fp = 0#32 ∧
      ∀ a, t.vbSpace a = s.vbSpace a

/-- 42_attribute_codec.md R177: a XorMappedAddress of family 1 keeps both forms. -/
def Obligations.AttrDecXorMappedAddress : Prop :=
  ∀ s : State, AttrPresent s → Framed s → read16 s.mbSpace s.cur.toNat = 0x0020#16 → 8 ≤ lengthAtCursor s →
    s.mbSpace (s.cur.toNat + 4) = 0x00#8 → s.mbSpace (s.cur.toNat + 5) = 0x01#8 →
    ∃ t, exec .attrDec s = .next t ∧ Walked s t ∧ RecordHeads 0x0020#16 s t ∧ t.attr.family = 1#8 ∧
      t.attr.xport = read16 s.mbSpace (s.cur.toNat + 6) ∧ t.attr.port = t.attr.xport ^^^ 0x2112#16 ∧
      t.attr.xaddr = read32 s.mbSpace (s.cur.toNat + 8) ∧ t.attr.addr = t.attr.xaddr ^^^ 0x2112A442#32 ∧
      t.attr.addrLen = 4#3 ∧ t.attr.fp = 0#32 ∧ ∀ a, t.vbSpace a = s.vbSpace a

/-- 42_attribute_codec.md R179: an address of any family but 1 decodes to the empty address; family and port are
recorded. -/
def Obligations.AttrDecOtherFamilyIsEmpty : Prop :=
  ∀ (s : State) (t : Half), AttrPresent s → Framed s → t = 0x0001#16 ∨ t = 0x0020#16 →
    read16 s.mbSpace s.cur.toNat = t → 4 ≤ lengthAtCursor s → s.mbSpace (s.cur.toNat + 4) = 0x00#8 →
    s.mbSpace (s.cur.toNat + 5) ≠ 0x01#8 →
    ∃ u, exec .attrDec s = .next u ∧ Walked s u ∧ RecordHeads t s u ∧ u.attr.family = s.mbSpace (s.cur.toNat + 5) ∧
      u.attr.addrLen = 0#3 ∧ u.attr.addr = 0#32 ∧ u.attr.xaddr = 0#32 ∧ u.attr.fp = 0#32 ∧
      (t = 0x0001#16 → u.attr.port = read16 s.mbSpace (s.cur.toNat + 6) ∧ u.attr.xport = 0#16) ∧
      (t = 0x0020#16 → u.attr.xport = read16 s.mbSpace (s.cur.toNat + 6) ∧
        u.attr.port = u.attr.xport ^^^ 0x2112#16) ∧
      ∀ a, u.vbSpace a = s.vbSpace a

/-- 42_attribute_codec.md R178, R180: the failures of an address value, in their order, and the whole record each then
leaves (R185): what had been written, and 0 in every other field. -/
def Obligations.MalformedAddressFails : Prop :=
  ∀ (s : State) (t : Half), AttrPresent s → Framed s → t = 0x0001#16 ∨ t = 0x0020#16 →
    read16 s.mbSpace s.cur.toNat = t →
    (lengthAtCursor s < 4 → ∃ u, exec .attrDec s = .next u ∧ Stopped .length s u ∧ RecordHeads t s u ∧ NoVariantFields u) ∧
    (4 ≤ lengthAtCursor s → s.mbSpace (s.cur.toNat + 4) ≠ 0x00#8 → ∃ u, exec .attrDec s = .next u ∧
      Stopped .reserved s u ∧ RecordHeads t s u ∧ NoVariantFields u) ∧
    (4 ≤ lengthAtCursor s → lengthAtCursor s < 8 → s.mbSpace (s.cur.toNat + 4) = 0x00#8 →
      s.mbSpace (s.cur.toNat + 5) = 0x01#8 → ∃ u, exec .attrDec s = .next u ∧ Stopped .length s u ∧ RecordHeads t s u ∧
        u.attr.family = 1#8 ∧ u.attr.addr = 0#32 ∧ u.attr.addrLen = 0#3 ∧ u.attr.xaddr = 0#32 ∧ u.attr.fp = 0#32 ∧
        (t = 0x0001#16 → u.attr.port = read16 s.mbSpace (s.cur.toNat + 6) ∧ u.attr.xport = 0#16) ∧
        (t = 0x0020#16 → u.attr.xport = read16 s.mbSpace (s.cur.toNat + 6) ∧
          u.attr.port = u.attr.xport ^^^ 0x2112#16))

/-- 42_attribute_codec.md R181: a Software attribute: its bytes go to VB from offset 0 on, whatever they are; VB beyond
them is as before. -/
def Obligations.AttrDecSoftware : Prop :=
  ∀ s : State, AttrPresent s → Framed s → read16 s.mbSpace s.cur.toNat = 0x8022#16 →
    ∃ t, exec .attrDec s = .next t ∧ Walked s t ∧ RecordHeads 0x8022#16 s t ∧
      (∀ k, k < lengthAtCursor s → t.vbSpace k = s.mbSpace (s.cur.toNat + 4 + k)) ∧
      (∀ k, lengthAtCursor s ≤ k → t.vbSpace k = s.vbSpace k) ∧
      t.attr.family = 0#8 ∧ t.attr.port = 0#16 ∧ t.attr.addr = 0#32 ∧ t.attr.addrLen = 0#3 ∧ t.attr.xport = 0#16 ∧
      t.attr.xaddr = 0#32 ∧ t.attr.fp = 0#32

/-- 42_attribute_codec.md R182: a Fingerprint attribute passes exactly when its value is the CRC of the bytes before
it XOR 0x5354554E; A_FP holds the stored value either way; another length fails with E_LENGTH, the value unread. -/
def Obligations.AttrDecFingerprint : Prop :=
  ∀ s : State, AttrPresent s → Framed s → read16 s.mbSpace s.cur.toNat = 0x8028#16 →
    ∃ t, exec .attrDec s = .next t ∧ RecordHeads 0x8028#16 s t ∧
      (lengthAtCursor s ≠ 4 → Stopped .length s t ∧ t.attr.fp = 0#32) ∧
      (lengthAtCursor s = 4 → t.attr.fp = read32 s.mbSpace (s.cur.toNat + 4) ∧
        (crc32 s.mbSpace 0 s.cur.toNat ^^^ 0x5354554E#32 = t.attr.fp →
          Walked s t ∧ ∀ a, t.vbSpace a = s.vbSpace a) ∧
        (crc32 s.mbSpace 0 s.cur.toNat ^^^ 0x5354554E#32 ≠ t.attr.fp → Stopped .fingerprint s t)) ∧
      t.attr.family = 0#8 ∧ t.attr.port = 0#16 ∧ t.attr.addr = 0#32 ∧ t.attr.addrLen = 0#3 ∧ t.attr.xport = 0#16 ∧
      t.attr.xaddr = 0#32

/-- 42_attribute_codec.md R183: every other type code is a Generic attribute: its value is skipped and it never fails
once it is framed. -/
def Obligations.AttrDecGenericIsSkipped : Prop :=
  ∀ (s : State) (t : Half), AttrPresent s → Framed s → kindOf t = .generic → read16 s.mbSpace s.cur.toNat = t →
    ∃ u, exec .attrDec s = .next u ∧ Walked s u ∧ RecordHeads t s u ∧ (∀ a, u.vbSpace a = s.vbSpace a) ∧
      u.attr.family = 0#8 ∧ u.attr.port = 0#16 ∧ u.attr.addr = 0#32 ∧ u.attr.addrLen = 0#3 ∧ u.attr.xport = 0#16 ∧
      u.attr.xaddr = 0#32 ∧ u.attr.fp = 0#32

/-- Log entry 6: the instruction of an attribute type decodes the attribute at CUR as one of that type, to the end where
its value passes (R176 to R183), and is ATTR_DEC where that type stands at CUR. -/
def Obligations.AttributeTypeInstructionsDecode : Prop :=
  ∀ (t : Half) (s : State), AttrPresent s → Framed s → ValuePasses t s →
    ∃ u, exec (decodeAttrType t) s = .next u ∧ Walked s u ∧ RecordHeads t s u ∧
      (read16 s.mbSpace s.cur.toNat = t → exec .attrDec s = .next u)

/-- 42_attribute_codec.md R175: every attribute that decodes moves the cursor by at least 4, never past END, and
keeps it 4-byte aligned; so a section of `H_LEN` bytes is walked in at most `H_LEN / 4` commands. -/
def Obligations.TheWalkAdvancesAndEnds : Prop :=
  ∀ s t : State, s.Inv → exec .attrDec s = .next t → t.err = 0#8 →
    s.cur.toNat + 4 ≤ t.cur.toNat ∧ t.cur.toNat ≤ t.endOff.toNat ∧ t.endOff = s.endOff ∧
    (t.cur.toNat - 20) % 4 = 0 ∧
    (t.endOff.toNat - t.cur.toNat) / 4 < (s.endOff.toNat - s.cur.toNat) / 4

/-- 42_attribute_codec.md R192: XOR with the cookie undoes itself, and the obfuscated fields ATTR_ENC writes for a
XorMappedAddress decode to the port and address the host gave, for every port and address. -/
def Obligations.XorMappedAddressFidelity : Prop :=
  (∀ (p : Half) (a : Word), (p ^^^ 0x2112#16) ^^^ 0x2112#16 = p ∧ (a ^^^ 0x2112A442#32) ^^^ 0x2112A442#32 = a) ∧
  ∀ s t : State, s.mode = .enc → s.attr.typ = 0x0020#16 → s.attr.family = 1#8 → 20 ≤ s.cur.toNat →
    s.cur.toNat + 12 ≤ Config.mbSize → exec .attrEnc s = .next t →
    (decodeAttrAt t.mbSpace s.cur.toNat t.cur.toNat).err = none ∧
    valueOf (decodeAttrAt t.mbSpace s.cur.toNat t.cur.toNat) = .xorMapped 1#8 s.attr.port (some s.attr.addr)

/-! ## Checksum engine -/

/-- 43_checksum.md R212: the loop of R211 gives the table the spec prints. -/
def Obligations.TableIsAsListed : Prop :=
  crcListing.length = 256 ∧ ∀ i : Byte, (crcListing[i.toNat]?).map (BitVec.ofNat 32) = some (crcTable i)

/-- 43_checksum.md R215: the two reference vectors, wherever the bytes stand. -/
def Obligations.CrcReferenceVectors : Prop :=
  ∀ (S : Space) (a : Nat), crc32 S a a = 0x00000000#32 ∧
    ((∀ k, k < 9 → S (a + k) = BitVec.ofNat 8 (0x31 + k)) → crc32 S a (a + 9) = 0xCBF43926#32)

/-- 43_checksum.md R216, R217: CRC_RUN over a legal range writes CRC_RES and leaves everything else; an illegal range
is refused with E_OPERAND. -/
def Obligations.CrcRunComputesOrRefuses : Prop :=
  ∀ s : State, ∃ t, exec .crcRun s = .next t ∧
    (s.crcStart.toNat ≤ s.crcEnd.toNat → s.crcEnd.toNat ≤ Config.mbSize →
      Succeeded s t ∧ t.mode = s.mode ∧ t.crcRes = crc32 s.mbSpace s.crcStart.toNat s.crcEnd.toNat ∧
      KeepsRegs [.status, .crcRes] s t ∧ KeepsBuffers s t ∧ KeepsPort s t) ∧
    (s.crcEnd.toNat < s.crcStart.toNat ∨ Config.mbSize < s.crcEnd.toNat → Refused 0x30#8 .operand s t)

/-- 43_checksum.md R220: two ranges that differ in exactly one bit have different CRCs. -/
def Obligations.CrcDetectsEverySingleBit : Prop :=
  ∀ (S T : Space) (start stop i j : Nat), start ≤ i → i < stop → j < 8 →
    (∀ a, a ≠ i → T a = S a) → T i = S i ^^^ BitVec.ofNat 8 (2 ^ j) → crc32 T start stop ≠ crc32 S start stop

/-- 42_attribute_codec.md R193 (b): a message that differs in one bit before a Fingerprint attribute that was accepted
fails with E_FINGERPRINT at that attribute, once the walk still reaches it. -/
def Obligations.FingerprintDetectsAFlipItReaches : Prop :=
  ∀ (S T : Space) (o stop stop' i j : Nat), read16 S o = 0x8028#16 → (decodeAttrAt S o stop).err = none →
    i < o → j < 8 → (∀ a, a ≠ i → T a = S a) → T i = S i ^^^ BitVec.ofNat 8 (2 ^ j) → o + 8 ≤ stop' →
    (decodeAttrAt T o stop').err = some .fingerprint

/-- 90_conflicts.md C4, vector V38: the stronger sentence of the source is false: there is a message that decodes with
a correct trailing Fingerprint and one bit whose flip it does not detect. -/
def Obligations.SomeSingleBitFlipIsNotDetected : Prop :=
  ∃ (B : List Byte) (i j : Nat) (any : Tid) (rest : Space), i < B.length - 8 ∧ j < 8 ∧
    (decodeMessage (overlay B rest) B.length false any).isOk = true ∧
    (decodeMessage (overlay (B.set i (B.getD i 0 ^^^ BitVec.ofNat 8 (2 ^ j))) rest) B.length false any).isOk = true ∧
    ((decodeMessage (overlay B rest) B.length false any).toOption.map Prod.snd).map List.getLast? =
      some (some .fingerprint)

/-! ## Messages -/

/-- 42_attribute_codec.md R191: the round trip of a whole message, for every list of encodable attributes in which a
Fingerprint, if present, is last. -/
def Obligations.MessageRoundTrip : Prop :=
  ∀ (c m : Half) (tid any : Tid) (as : List AttrValue) (rest : Space), LegalHeader c m →
    (∀ a ∈ as, encodable a = true) → (∀ a ∈ as.dropLast, a ≠ .fingerprint) →
    (encodeMessage c m tid as).length ≤ Config.mbSize →
    decodeMessage (overlay (encodeMessage c m tid as) rest) (encodeMessage c m tid as).length false any =
      .ok ({ cls := c, method := m, len := BitVec.ofNat 16 ((encodeMessage c m tid as).length - 20), tid := tid }, as)

/-- 42_attribute_codec.md R188: the host program of a message leaves exactly EncodeMessage in MB[0 .. CUR-1], in ENC
mode and without an error, from every state. -/
def Obligations.EncodeProgramProducesTheMessage : Prop :=
  ∀ (c m : Half) (tid : Tid) (as : List AttrValue) (s : State), LegalHeader c m →
    (∀ a ∈ as, encodable a = true) → (encodeMessage c m tid as).length ≤ Config.mbSize →
    ∃ t, Sys2Proof.core.run (encodeProgram c m tid as).length { s with port := encodeProgram c m tid as } = .next t ∧
      t.port = [] ∧ t.err = 0#8 ∧ t.mode = .enc ∧ t.cur.toNat = (encodeMessage c m tid as).length ∧
      slice t.mbSpace 0 t.cur.toNat = encodeMessage c m tid as

/-- 42_attribute_codec.md R189: what the host observes by HDR_DEC and then ATTR_DEC while MORE reads 1 is
DecodeMessage: the same failure code, or the same header and attribute values. -/
def Obligations.HostObservesDecodeMessage : Prop :=
  ∀ s : State, observeMessage s =
    (decodeMessage s.mbSpace s.rxLen.toNat s.tidchk s.expTid).mapError ErrCode.toByte

/-! ## Host port -/

/-- 10_state.md R22: a register's number names it, and no number names two registers; CMD and the undefined numbers
(44_system_and_host.md R248) name none. -/
def Obligations.RegisterNumbersNameRegisters : Prop :=
  (∀ r : Reg, regOf r.number = some r) ∧ (∀ (n : Byte) (r : Reg), regOf n = some r → r.number = n) ∧
  ∀ n : Byte, regOf n = none ↔ n = 0x00#8 ∨ UndefinedNumber n

/-- 44_system_and_host.md R246 with R241: a write to an RW register stores the low bits of the data, as many as the
register has, and nothing else changes. -/
def Obligations.RegisterWritesStoreTheirWidth : Prop :=
  ∀ (r : Reg) (v : Word) (s : State) (rest : List Event), r.writable = true →
    s.port = .wr r.number v :: rest → ∃ t, step s = .next t ∧ (r.read t).toNat = v.toNat % 2 ^ r.width ∧
      KeepsRegs [r] s t ∧ KeepsBuffers s t ∧ t.port = rest ∧ t.draws = s.draws ∧ t.epoch = s.epoch

/-- 44_system_and_host.md R247, R248: a write to a read-only register or to an undefined number has no effect; a read of
an undefined number returns 0. -/
def Obligations.OtherRegisterWritesHaveNoEffect : Prop :=
  ∀ (n : Byte) (v : Word) (s : State) (rest : List Event),
    (n ∈ [0x02#8, 0x03#8, 0x05#8, 0x06#8, 0x07#8, 0x12#8, 0x42#8, 0x46#8, 0x47#8, 0x48#8, 0x49#8, 0x4A#8, 0x4B#8,
        0x52#8] ∨ UndefinedNumber n →
      s.port = .wr n v :: rest → step s = .next { s with port := rest, reply := .none }) ∧
    (UndefinedNumber n → s.port = .rd n :: rest → step s = .next { s with port := rest, reply := .reg 0#32 })

/-- 44_system_and_host.md R242, R244: a read returns the register (0 for CMD and for an undefined number), or the byte (0
beyond the buffer; VB by R245), and changes nothing. -/
def Obligations.ReadsReturnAndChangeNothing : Prop :=
  (∀ (r : Reg) (s : State) (rest : List Event), s.port = .rd r.number :: rest →
    step s = .next { s with port := rest, reply := .reg (r.read s) }) ∧
  (∀ (n : Byte) (s : State) (rest : List Event), n = 0x00#8 ∨ UndefinedNumber n → s.port = .rd n :: rest →
    step s = .next { s with port := rest, reply := .reg 0#32 }) ∧
  (∀ (off : Offset) (s : State) (rest : List Event), s.port = .rb off :: rest →
    step s = .next { s with
      port := rest, reply := .byte (if off.toNat < 65552 then s.mbSpace off.toNat else 0#8) }) ∧
  (∀ (off : Offset) (s : State) (rest : List Event), s.port = .rv off :: rest →
    step s = .next { s with
      port := rest, reply := .byte (if off.toNat < 65528 then s.vbSpace off.toNat else 0#8) })

/-- 44_system_and_host.md R243 (VB by R245): a byte write changes that byte, if the buffer has it, and nothing else. -/
def Obligations.ByteWritesStoreOneByte : Prop :=
  ∀ (off : Offset) (b : Byte) (s : State) (rest : List Event),
    (s.port = .wb off b :: rest → ∃ t, step s = .next t ∧ (∀ r : Reg, r.read t = r.read s) ∧
      (off.toNat < 65552 → t.mbSpace off.toNat = b) ∧
      (∀ a, a ≠ off.toNat ∨ 65552 ≤ off.toNat → t.mbSpace a = s.mbSpace a) ∧ (∀ a, t.vbSpace a = s.vbSpace a)) ∧
    (s.port = .wv off b :: rest → ∃ t, step s = .next t ∧ (∀ r : Reg, r.read t = r.read s) ∧
      (off.toNat < 65528 → t.vbSpace off.toNat = b) ∧
      (∀ a, a ≠ off.toNat ∨ 65528 ≤ off.toNat → t.vbSpace a = s.vbSpace a) ∧ (∀ a, t.mbSpace a = s.mbSpace a))
end

