-- ==== Sys2Proof/Laws/State.lean ====
section
/-! SUPPORT. One lemma per field per shared update of the state, all by `rfl`, so that no later proof unfolds a record
update; and the buffers as spaces after those updates. -/

namespace Sys2Proof.Machine

/-! ## Success (R268) -/

@[simp] theorem State.succeed_ctrl (s : State) : (s.succeed).ctrl = s.ctrl := rfl
@[simp] theorem State.succeed_err (s : State) : (s.succeed).err = 0 := rfl
@[simp] theorem State.succeed_mode (s : State) : (s.succeed).mode = s.mode := rfl
@[simp] theorem State.succeed_firstCode (s : State) : (s.succeed).firstCode = s.firstCode := rfl
@[simp] theorem State.succeed_firstOp (s : State) : (s.succeed).firstOp = s.firstOp := rfl
@[simp] theorem State.succeed_rxLen (s : State) : (s.succeed).rxLen = s.rxLen := rfl
@[simp] theorem State.succeed_txLen (s : State) : (s.succeed).txLen = s.txLen := rfl
@[simp] theorem State.succeed_cur (s : State) : (s.succeed).cur = s.cur := rfl
@[simp] theorem State.succeed_endOff (s : State) : (s.succeed).endOff = s.endOff := rfl
@[simp] theorem State.succeed_hClass (s : State) : (s.succeed).hClass = s.hClass := rfl
@[simp] theorem State.succeed_hMethod (s : State) : (s.succeed).hMethod = s.hMethod := rfl
@[simp] theorem State.succeed_hLen (s : State) : (s.succeed).hLen = s.hLen := rfl
@[simp] theorem State.succeed_hTid (s : State) : (s.succeed).hTid = s.hTid := rfl
@[simp] theorem State.succeed_expTid (s : State) : (s.succeed).expTid = s.expTid := rfl
@[simp] theorem State.succeed_attr (s : State) : (s.succeed).attr = s.attr := rfl
@[simp] theorem State.succeed_crcStart (s : State) : (s.succeed).crcStart = s.crcStart := rfl
@[simp] theorem State.succeed_crcEnd (s : State) : (s.succeed).crcEnd = s.crcEnd := rfl
@[simp] theorem State.succeed_crcRes (s : State) : (s.succeed).crcRes = s.crcRes := rfl
@[simp] theorem State.succeed_mb (s : State) : (s.succeed).mb = s.mb := rfl
@[simp] theorem State.succeed_vb (s : State) : (s.succeed).vb = s.vb := rfl
@[simp] theorem State.succeed_port (s : State) : (s.succeed).port = s.port := rfl
@[simp] theorem State.succeed_reply (s : State) : (s.succeed).reply = s.reply := rfl
@[simp] theorem State.succeed_draws (s : State) : (s.succeed).draws = s.draws := rfl
@[simp] theorem State.succeed_epoch (s : State) : (s.succeed).epoch = s.epoch := rfl

/-! ## The record of a failure (R28) -/

@[simp] theorem State.recordFailure_ctrl (op : Byte) (e : ErrCode) (s : State) : (s.recordFailure op e).ctrl = s.ctrl := rfl
@[simp] theorem State.recordFailure_err (op : Byte) (e : ErrCode) (s : State) : (s.recordFailure op e).err = e.toByte := rfl
@[simp] theorem State.recordFailure_mode (op : Byte) (e : ErrCode) (s : State) : (s.recordFailure op e).mode = s.mode := rfl
@[simp] theorem State.recordFailure_firstCode (op : Byte) (e : ErrCode) (s : State) : (s.recordFailure op e).firstCode = (if s.firstCode = 0#8 then e.toByte else s.firstCode) := rfl
@[simp] theorem State.recordFailure_firstOp (op : Byte) (e : ErrCode) (s : State) : (s.recordFailure op e).firstOp = (if s.firstCode = 0#8 then op else s.firstOp) := rfl
@[simp] theorem State.recordFailure_rxLen (op : Byte) (e : ErrCode) (s : State) : (s.recordFailure op e).rxLen = s.rxLen := rfl
@[simp] theorem State.recordFailure_txLen (op : Byte) (e : ErrCode) (s : State) : (s.recordFailure op e).txLen = s.txLen := rfl
@[simp] theorem State.recordFailure_cur (op : Byte) (e : ErrCode) (s : State) : (s.recordFailure op e).cur = s.cur := rfl
@[simp] theorem State.recordFailure_endOff (op : Byte) (e : ErrCode) (s : State) : (s.recordFailure op e).endOff = s.endOff := rfl
@[simp] theorem State.recordFailure_hClass (op : Byte) (e : ErrCode) (s : State) : (s.recordFailure op e).hClass = s.hClass := rfl
@[simp] theorem State.recordFailure_hMethod (op : Byte) (e : ErrCode) (s : State) : (s.recordFailure op e).hMethod = s.hMethod := rfl
@[simp] theorem State.recordFailure_hLen (op : Byte) (e : ErrCode) (s : State) : (s.recordFailure op e).hLen = s.hLen := rfl
@[simp] theorem State.recordFailure_hTid (op : Byte) (e : ErrCode) (s : State) : (s.recordFailure op e).hTid = s.hTid := rfl
@[simp] theorem State.recordFailure_expTid (op : Byte) (e : ErrCode) (s : State) : (s.recordFailure op e).expTid = s.expTid := rfl
@[simp] theorem State.recordFailure_attr (op : Byte) (e : ErrCode) (s : State) : (s.recordFailure op e).attr = s.attr := rfl
@[simp] theorem State.recordFailure_crcStart (op : Byte) (e : ErrCode) (s : State) : (s.recordFailure op e).crcStart = s.crcStart := rfl
@[simp] theorem State.recordFailure_crcEnd (op : Byte) (e : ErrCode) (s : State) : (s.recordFailure op e).crcEnd = s.crcEnd := rfl
@[simp] theorem State.recordFailure_crcRes (op : Byte) (e : ErrCode) (s : State) : (s.recordFailure op e).crcRes = s.crcRes := rfl
@[simp] theorem State.recordFailure_mb (op : Byte) (e : ErrCode) (s : State) : (s.recordFailure op e).mb = s.mb := rfl
@[simp] theorem State.recordFailure_vb (op : Byte) (e : ErrCode) (s : State) : (s.recordFailure op e).vb = s.vb := rfl
@[simp] theorem State.recordFailure_port (op : Byte) (e : ErrCode) (s : State) : (s.recordFailure op e).port = s.port := rfl
@[simp] theorem State.recordFailure_reply (op : Byte) (e : ErrCode) (s : State) : (s.recordFailure op e).reply = s.reply := rfl
@[simp] theorem State.recordFailure_draws (op : Byte) (e : ErrCode) (s : State) : (s.recordFailure op e).draws = s.draws := rfl
@[simp] theorem State.recordFailure_epoch (op : Byte) (e : ErrCode) (s : State) : (s.recordFailure op e).epoch = s.epoch := rfl

/-! ## ParseError entry (R266) -/

@[simp] theorem State.parseError_ctrl (op : Byte) (e : ErrCode) (s : State) : (s.parseError op e).ctrl = s.ctrl := rfl
@[simp] theorem State.parseError_err (op : Byte) (e : ErrCode) (s : State) : (s.parseError op e).err = e.toByte := rfl
@[simp] theorem State.parseError_mode (op : Byte) (e : ErrCode) (s : State) : (s.parseError op e).mode = .idle := rfl
@[simp] theorem State.parseError_firstCode (op : Byte) (e : ErrCode) (s : State) : (s.parseError op e).firstCode = (if s.firstCode = 0#8 then e.toByte else s.firstCode) := rfl
@[simp] theorem State.parseError_firstOp (op : Byte) (e : ErrCode) (s : State) : (s.parseError op e).firstOp = (if s.firstCode = 0#8 then op else s.firstOp) := rfl
@[simp] theorem State.parseError_rxLen (op : Byte) (e : ErrCode) (s : State) : (s.parseError op e).rxLen = s.rxLen := rfl
@[simp] theorem State.parseError_txLen (op : Byte) (e : ErrCode) (s : State) : (s.parseError op e).txLen = s.txLen := rfl
@[simp] theorem State.parseError_cur (op : Byte) (e : ErrCode) (s : State) : (s.parseError op e).cur = s.cur := rfl
@[simp] theorem State.parseError_endOff (op : Byte) (e : ErrCode) (s : State) : (s.parseError op e).endOff = s.endOff := rfl
@[simp] theorem State.parseError_hClass (op : Byte) (e : ErrCode) (s : State) : (s.parseError op e).hClass = s.hClass := rfl
@[simp] theorem State.parseError_hMethod (op : Byte) (e : ErrCode) (s : State) : (s.parseError op e).hMethod = s.hMethod := rfl
@[simp] theorem State.parseError_hLen (op : Byte) (e : ErrCode) (s : State) : (s.parseError op e).hLen = s.hLen := rfl
@[simp] theorem State.parseError_hTid (op : Byte) (e : ErrCode) (s : State) : (s.parseError op e).hTid = s.hTid := rfl
@[simp] theorem State.parseError_expTid (op : Byte) (e : ErrCode) (s : State) : (s.parseError op e).expTid = s.expTid := rfl
@[simp] theorem State.parseError_attr (op : Byte) (e : ErrCode) (s : State) : (s.parseError op e).attr = s.attr := rfl
@[simp] theorem State.parseError_crcStart (op : Byte) (e : ErrCode) (s : State) : (s.parseError op e).crcStart = s.crcStart := rfl
@[simp] theorem State.parseError_crcEnd (op : Byte) (e : ErrCode) (s : State) : (s.parseError op e).crcEnd = s.crcEnd := rfl
@[simp] theorem State.parseError_crcRes (op : Byte) (e : ErrCode) (s : State) : (s.parseError op e).crcRes = s.crcRes := rfl
@[simp] theorem State.parseError_mb (op : Byte) (e : ErrCode) (s : State) : (s.parseError op e).mb = s.mb := rfl
@[simp] theorem State.parseError_vb (op : Byte) (e : ErrCode) (s : State) : (s.parseError op e).vb = s.vb := rfl
@[simp] theorem State.parseError_port (op : Byte) (e : ErrCode) (s : State) : (s.parseError op e).port = s.port := rfl
@[simp] theorem State.parseError_reply (op : Byte) (e : ErrCode) (s : State) : (s.parseError op e).reply = s.reply := rfl
@[simp] theorem State.parseError_draws (op : Byte) (e : ErrCode) (s : State) : (s.parseError op e).draws = s.draws := rfl
@[simp] theorem State.parseError_epoch (op : Byte) (e : ErrCode) (s : State) : (s.parseError op e).epoch = s.epoch := rfl

/-! ## Refusal entry (R267) -/

@[simp] theorem State.refusal_ctrl (op : Byte) (e : ErrCode) (s : State) : (s.refusal op e).ctrl = s.ctrl := rfl
@[simp] theorem State.refusal_err (op : Byte) (e : ErrCode) (s : State) : (s.refusal op e).err = e.toByte := rfl
@[simp] theorem State.refusal_mode (op : Byte) (e : ErrCode) (s : State) : (s.refusal op e).mode = s.mode := rfl
@[simp] theorem State.refusal_firstCode (op : Byte) (e : ErrCode) (s : State) : (s.refusal op e).firstCode = (if s.firstCode = 0#8 then e.toByte else s.firstCode) := rfl
@[simp] theorem State.refusal_firstOp (op : Byte) (e : ErrCode) (s : State) : (s.refusal op e).firstOp = (if s.firstCode = 0#8 then op else s.firstOp) := rfl
@[simp] theorem State.refusal_rxLen (op : Byte) (e : ErrCode) (s : State) : (s.refusal op e).rxLen = s.rxLen := rfl
@[simp] theorem State.refusal_txLen (op : Byte) (e : ErrCode) (s : State) : (s.refusal op e).txLen = s.txLen := rfl
@[simp] theorem State.refusal_cur (op : Byte) (e : ErrCode) (s : State) : (s.refusal op e).cur = s.cur := rfl
@[simp] theorem State.refusal_endOff (op : Byte) (e : ErrCode) (s : State) : (s.refusal op e).endOff = s.endOff := rfl
@[simp] theorem State.refusal_hClass (op : Byte) (e : ErrCode) (s : State) : (s.refusal op e).hClass = s.hClass := rfl
@[simp] theorem State.refusal_hMethod (op : Byte) (e : ErrCode) (s : State) : (s.refusal op e).hMethod = s.hMethod := rfl
@[simp] theorem State.refusal_hLen (op : Byte) (e : ErrCode) (s : State) : (s.refusal op e).hLen = s.hLen := rfl
@[simp] theorem State.refusal_hTid (op : Byte) (e : ErrCode) (s : State) : (s.refusal op e).hTid = s.hTid := rfl
@[simp] theorem State.refusal_expTid (op : Byte) (e : ErrCode) (s : State) : (s.refusal op e).expTid = s.expTid := rfl
@[simp] theorem State.refusal_attr (op : Byte) (e : ErrCode) (s : State) : (s.refusal op e).attr = s.attr := rfl
@[simp] theorem State.refusal_crcStart (op : Byte) (e : ErrCode) (s : State) : (s.refusal op e).crcStart = s.crcStart := rfl
@[simp] theorem State.refusal_crcEnd (op : Byte) (e : ErrCode) (s : State) : (s.refusal op e).crcEnd = s.crcEnd := rfl
@[simp] theorem State.refusal_crcRes (op : Byte) (e : ErrCode) (s : State) : (s.refusal op e).crcRes = s.crcRes := rfl
@[simp] theorem State.refusal_mb (op : Byte) (e : ErrCode) (s : State) : (s.refusal op e).mb = s.mb := rfl
@[simp] theorem State.refusal_vb (op : Byte) (e : ErrCode) (s : State) : (s.refusal op e).vb = s.vb := rfl
@[simp] theorem State.refusal_port (op : Byte) (e : ErrCode) (s : State) : (s.refusal op e).port = s.port := rfl
@[simp] theorem State.refusal_reply (op : Byte) (e : ErrCode) (s : State) : (s.refusal op e).reply = s.reply := rfl
@[simp] theorem State.refusal_draws (op : Byte) (e : ErrCode) (s : State) : (s.refusal op e).draws = s.draws := rfl
@[simp] theorem State.refusal_epoch (op : Byte) (e : ErrCode) (s : State) : (s.refusal op e).epoch = s.epoch := rfl

/-! ## Registers cleared (R55, R232) -/

@[simp] theorem State.clearRegisters_ctrl (s : State) : (s.clearRegisters).ctrl = State.reset.ctrl := rfl
@[simp] theorem State.clearRegisters_err (s : State) : (s.clearRegisters).err = State.reset.err := rfl
@[simp] theorem State.clearRegisters_mode (s : State) : (s.clearRegisters).mode = State.reset.mode := rfl
@[simp] theorem State.clearRegisters_firstCode (s : State) : (s.clearRegisters).firstCode = State.reset.firstCode := rfl
@[simp] theorem State.clearRegisters_firstOp (s : State) : (s.clearRegisters).firstOp = State.reset.firstOp := rfl
@[simp] theorem State.clearRegisters_rxLen (s : State) : (s.clearRegisters).rxLen = State.reset.rxLen := rfl
@[simp] theorem State.clearRegisters_txLen (s : State) : (s.clearRegisters).txLen = State.reset.txLen := rfl
@[simp] theorem State.clearRegisters_cur (s : State) : (s.clearRegisters).cur = State.reset.cur := rfl
@[simp] theorem State.clearRegisters_endOff (s : State) : (s.clearRegisters).endOff = State.reset.endOff := rfl
@[simp] theorem State.clearRegisters_hClass (s : State) : (s.clearRegisters).hClass = State.reset.hClass := rfl
@[simp] theorem State.clearRegisters_hMethod (s : State) : (s.clearRegisters).hMethod = State.reset.hMethod := rfl
@[simp] theorem State.clearRegisters_hLen (s : State) : (s.clearRegisters).hLen = State.reset.hLen := rfl
@[simp] theorem State.clearRegisters_hTid (s : State) : (s.clearRegisters).hTid = State.reset.hTid := rfl
@[simp] theorem State.clearRegisters_expTid (s : State) : (s.clearRegisters).expTid = State.reset.expTid := rfl
@[simp] theorem State.clearRegisters_attr (s : State) : (s.clearRegisters).attr = State.reset.attr := rfl
@[simp] theorem State.clearRegisters_crcStart (s : State) : (s.clearRegisters).crcStart = State.reset.crcStart := rfl
@[simp] theorem State.clearRegisters_crcEnd (s : State) : (s.clearRegisters).crcEnd = State.reset.crcEnd := rfl
@[simp] theorem State.clearRegisters_crcRes (s : State) : (s.clearRegisters).crcRes = State.reset.crcRes := rfl
@[simp] theorem State.clearRegisters_mb (s : State) : (s.clearRegisters).mb = s.mb := rfl
@[simp] theorem State.clearRegisters_vb (s : State) : (s.clearRegisters).vb = s.vb := rfl
@[simp] theorem State.clearRegisters_port (s : State) : (s.clearRegisters).port = s.port := rfl
@[simp] theorem State.clearRegisters_reply (s : State) : (s.clearRegisters).reply = s.reply := rfl
@[simp] theorem State.clearRegisters_draws (s : State) : (s.clearRegisters).draws = s.draws := rfl
@[simp] theorem State.clearRegisters_epoch (s : State) : (s.clearRegisters).epoch = s.epoch := rfl

/-! ## Hardware reset (R290, R291) -/

@[simp] theorem hardwareReset_ctrl (s : State) : (hardwareReset s).ctrl = State.reset.ctrl := rfl
@[simp] theorem hardwareReset_err (s : State) : (hardwareReset s).err = State.reset.err := rfl
@[simp] theorem hardwareReset_mode (s : State) : (hardwareReset s).mode = State.reset.mode := rfl
@[simp] theorem hardwareReset_firstCode (s : State) : (hardwareReset s).firstCode = State.reset.firstCode := rfl
@[simp] theorem hardwareReset_firstOp (s : State) : (hardwareReset s).firstOp = State.reset.firstOp := rfl
@[simp] theorem hardwareReset_rxLen (s : State) : (hardwareReset s).rxLen = State.reset.rxLen := rfl
@[simp] theorem hardwareReset_txLen (s : State) : (hardwareReset s).txLen = State.reset.txLen := rfl
@[simp] theorem hardwareReset_cur (s : State) : (hardwareReset s).cur = State.reset.cur := rfl
@[simp] theorem hardwareReset_endOff (s : State) : (hardwareReset s).endOff = State.reset.endOff := rfl
@[simp] theorem hardwareReset_hClass (s : State) : (hardwareReset s).hClass = State.reset.hClass := rfl
@[simp] theorem hardwareReset_hMethod (s : State) : (hardwareReset s).hMethod = State.reset.hMethod := rfl
@[simp] theorem hardwareReset_hLen (s : State) : (hardwareReset s).hLen = State.reset.hLen := rfl
@[simp] theorem hardwareReset_hTid (s : State) : (hardwareReset s).hTid = State.reset.hTid := rfl
@[simp] theorem hardwareReset_expTid (s : State) : (hardwareReset s).expTid = State.reset.expTid := rfl
@[simp] theorem hardwareReset_attr (s : State) : (hardwareReset s).attr = State.reset.attr := rfl
@[simp] theorem hardwareReset_crcStart (s : State) : (hardwareReset s).crcStart = State.reset.crcStart := rfl
@[simp] theorem hardwareReset_crcEnd (s : State) : (hardwareReset s).crcEnd = State.reset.crcEnd := rfl
@[simp] theorem hardwareReset_crcRes (s : State) : (hardwareReset s).crcRes = State.reset.crcRes := rfl
@[simp] theorem hardwareReset_mb (s : State) : (hardwareReset s).mb = [] := rfl
@[simp] theorem hardwareReset_vb (s : State) : (hardwareReset s).vb = [] := rfl
@[simp] theorem hardwareReset_port (s : State) : (hardwareReset s).port = s.port := rfl
@[simp] theorem hardwareReset_reply (s : State) : (hardwareReset s).reply = s.reply := rfl
@[simp] theorem hardwareReset_draws (s : State) : (hardwareReset s).draws = s.draws := rfl
@[simp] theorem hardwareReset_epoch (s : State) : (hardwareReset s).epoch = s.epoch + 1 := rfl

/-! ## An event leaves the port -/

@[simp] theorem takeEvent_ctrl (rest : List Event) (s : State) : (takeEvent rest s).ctrl = s.ctrl := rfl
@[simp] theorem takeEvent_err (rest : List Event) (s : State) : (takeEvent rest s).err = s.err := rfl
@[simp] theorem takeEvent_mode (rest : List Event) (s : State) : (takeEvent rest s).mode = s.mode := rfl
@[simp] theorem takeEvent_firstCode (rest : List Event) (s : State) : (takeEvent rest s).firstCode = s.firstCode := rfl
@[simp] theorem takeEvent_firstOp (rest : List Event) (s : State) : (takeEvent rest s).firstOp = s.firstOp := rfl
@[simp] theorem takeEvent_rxLen (rest : List Event) (s : State) : (takeEvent rest s).rxLen = s.rxLen := rfl
@[simp] theorem takeEvent_txLen (rest : List Event) (s : State) : (takeEvent rest s).txLen = s.txLen := rfl
@[simp] theorem takeEvent_cur (rest : List Event) (s : State) : (takeEvent rest s).cur = s.cur := rfl
@[simp] theorem takeEvent_endOff (rest : List Event) (s : State) : (takeEvent rest s).endOff = s.endOff := rfl
@[simp] theorem takeEvent_hClass (rest : List Event) (s : State) : (takeEvent rest s).hClass = s.hClass := rfl
@[simp] theorem takeEvent_hMethod (rest : List Event) (s : State) : (takeEvent rest s).hMethod = s.hMethod := rfl
@[simp] theorem takeEvent_hLen (rest : List Event) (s : State) : (takeEvent rest s).hLen = s.hLen := rfl
@[simp] theorem takeEvent_hTid (rest : List Event) (s : State) : (takeEvent rest s).hTid = s.hTid := rfl
@[simp] theorem takeEvent_expTid (rest : List Event) (s : State) : (takeEvent rest s).expTid = s.expTid := rfl
@[simp] theorem takeEvent_attr (rest : List Event) (s : State) : (takeEvent rest s).attr = s.attr := rfl
@[simp] theorem takeEvent_crcStart (rest : List Event) (s : State) : (takeEvent rest s).crcStart = s.crcStart := rfl
@[simp] theorem takeEvent_crcEnd (rest : List Event) (s : State) : (takeEvent rest s).crcEnd = s.crcEnd := rfl
@[simp] theorem takeEvent_crcRes (rest : List Event) (s : State) : (takeEvent rest s).crcRes = s.crcRes := rfl
@[simp] theorem takeEvent_mb (rest : List Event) (s : State) : (takeEvent rest s).mb = s.mb := rfl
@[simp] theorem takeEvent_vb (rest : List Event) (s : State) : (takeEvent rest s).vb = s.vb := rfl
@[simp] theorem takeEvent_port (rest : List Event) (s : State) : (takeEvent rest s).port = rest := rfl
@[simp] theorem takeEvent_reply (rest : List Event) (s : State) : (takeEvent rest s).reply = Reply.none := rfl
@[simp] theorem takeEvent_draws (rest : List Event) (s : State) : (takeEvent rest s).draws = s.draws := rfl
@[simp] theorem takeEvent_epoch (rest : List Event) (s : State) : (takeEvent rest s).epoch = s.epoch := rfl

/-! ## The buffers as spaces -/

@[simp] theorem State.succeed_mbSpace (s : State) : (s.succeed).mbSpace = s.mbSpace := rfl
@[simp] theorem State.succeed_vbSpace (s : State) : (s.succeed).vbSpace = s.vbSpace := rfl
@[simp] theorem State.recordFailure_mbSpace (op : Byte) (e : ErrCode) (s : State) : (s.recordFailure op e).mbSpace = s.mbSpace := rfl
@[simp] theorem State.recordFailure_vbSpace (op : Byte) (e : ErrCode) (s : State) : (s.recordFailure op e).vbSpace = s.vbSpace := rfl
@[simp] theorem State.parseError_mbSpace (op : Byte) (e : ErrCode) (s : State) : (s.parseError op e).mbSpace = s.mbSpace := rfl
@[simp] theorem State.parseError_vbSpace (op : Byte) (e : ErrCode) (s : State) : (s.parseError op e).vbSpace = s.vbSpace := rfl
@[simp] theorem State.refusal_mbSpace (op : Byte) (e : ErrCode) (s : State) : (s.refusal op e).mbSpace = s.mbSpace := rfl
@[simp] theorem State.refusal_vbSpace (op : Byte) (e : ErrCode) (s : State) : (s.refusal op e).vbSpace = s.vbSpace := rfl
@[simp] theorem State.clearRegisters_mbSpace (s : State) : (s.clearRegisters).mbSpace = s.mbSpace := rfl
@[simp] theorem State.clearRegisters_vbSpace (s : State) : (s.clearRegisters).vbSpace = s.vbSpace := rfl
@[simp] theorem takeEvent_mbSpace (rest : List Event) (s : State) : (takeEvent rest s).mbSpace = s.mbSpace := rfl
@[simp] theorem takeEvent_vbSpace (rest : List Event) (s : State) : (takeEvent rest s).vbSpace = s.vbSpace := rfl

/-- After a hardware reset a byte reads as the unspecified byte of the new reset. -/
@[simp] theorem hardwareReset_mbSpace (s : State) (a : Nat) :
    (hardwareReset s).mbSpace a = Config.mbUnwritten (s.epoch + 1) a := rfl
@[simp] theorem hardwareReset_vbSpace (s : State) (a : Nat) :
    (hardwareReset s).vbSpace a = Config.vbUnwritten (s.epoch + 1) a := rfl

/-! ## The three ends of a command answer a next state -/

@[simp] theorem done_eq_next (s t : State) : done s = .next t ↔ s.succeed = t := by simp [done]
@[simp] theorem raiseParseError_eq_next (op : Byte) (e : ErrCode) (s t : State) :
    raiseParseError op e s = .next t ↔ s.parseError op e = t := by simp [raiseParseError]
@[simp] theorem raiseRefusal_eq_next (op : Byte) (e : ErrCode) (s t : State) :
    raiseRefusal op e s = .next t ↔ s.refusal op e = t := by simp [raiseRefusal]

/-- The codes of R260 are 1 to 12. -/
theorem ErrCode.toByte_range (e : ErrCode) : 1 ≤ e.toByte.toNat ∧ e.toByte.toNat ≤ 12 := by cases e <;> decide

/-- A failure is told from success by its code. -/
theorem ErrCode.toByte_ne_zero (e : ErrCode) : e.toByte ≠ 0#8 := by cases e <;> decide

end Sys2Proof.Machine
end

