-- ==== Sys2Proof/Laws/Memory.lean ====
section
/-! SUPPORT. The laws of the buffers: a read after a write, a write leaves every other offset alone, every memory
operation keeps the canonical form. -/

namespace Sys2Proof.Machine

@[simp] theorem Memory.get?_nil (a : Nat) : Memory.get? [] a = none := rfl

/-- One written byte: it reads as written, every other offset as before. -/
theorem Memory.get?_set (m : Memory) (a x : Nat) (v : Byte) :
    Memory.get? (Memory.set m a v) x = if x = a then some v else Memory.get? m x := by
  induction m with
  | nil => simp [Memory.set, Memory.get?]
  | cons c rest ih =>
    obtain ⟨b, w⟩ := c
    rcases Nat.lt_trichotomy a b with h | h | h
    · simp [Memory.set, Memory.get?, h]
    · subst h
      by_cases hx : x = a <;> simp [Memory.set, Memory.get?, hx]
    · have h1 : ¬ a < b := by omega
      have h2 : a ≠ b := by omega
      simp only [Memory.set, h1, h2, if_false, Memory.get?, ih]
      by_cases hb : x = b
      · subst hb; simp [Ne.symm h2]
      · simp [hb]

/-- Written bytes: each reads as written, every offset outside them as before. -/
theorem Memory.get?_setBytes (m : Memory) (a x : Nat) (bs : List Byte) :
    Memory.get? (Memory.setBytes m a bs) x =
      if a ≤ x ∧ x < a + bs.length then bs[x - a]? else Memory.get? m x := by
  induction bs generalizing m a with
  | nil => simp [Memory.setBytes, show ¬ (a ≤ x ∧ x < a) by omega]
  | cons b bs ih =>
    rw [Memory.setBytes, ih, Memory.get?_set, List.length_cons]
    by_cases h : x = a
    · subst h; simp
    · by_cases h1 : a + 1 ≤ x ∧ x < a + 1 + bs.length
      · have h2 : a ≤ x ∧ x < a + (bs.length + 1) := by omega
        rw [if_pos h1, if_pos h2, show x - a = (x - (a + 1)) + 1 by omega, List.getElem?_cons_succ]
      · have h2 : ¬ (a ≤ x ∧ x < a + (bs.length + 1)) := by omega
        rw [if_neg h1, if_neg h2, if_neg h]

/-- A buffer after written bytes, as a space. -/
theorem getD_get?_setBytes (m : Memory) (a x : Nat) (bs : List Byte) (d : Byte) :
    (Memory.get? (Memory.setBytes m a bs) x).getD d =
      if h : a ≤ x ∧ x < a + bs.length then bs[x - a]'(by omega) else (Memory.get? m x).getD d := by
  rw [Memory.get?_setBytes]
  split
  · next h => simp [List.getElem?_eq_getElem (show x - a < bs.length by omega)]
  · rfl

/-- The lower bound of a canonical list may be lowered. -/
theorem Memory.wfFrom_mono {size lo lo' : Nat} {m : Memory} (h : lo' ≤ lo) (hm : Memory.wfFrom size lo m = true) :
    Memory.wfFrom size lo' m = true := by
  cases m with
  | nil => rfl
  | cons c rest =>
    obtain ⟨a, w⟩ := c
    simp only [Memory.wfFrom, Bool.and_eq_true, decide_eq_true_eq] at hm ⊢
    exact ⟨⟨by omega, hm.1.2⟩, hm.2⟩

/-- One written byte keeps the canonical form. -/
theorem Memory.wfFrom_set {size lo a : Nat} {m : Memory} {v : Byte} (hlo : lo ≤ a) (ha : a < size)
    (hm : Memory.wfFrom size lo m = true) : Memory.wfFrom size lo (Memory.set m a v) = true := by
  induction m generalizing lo with
  | nil => simp [Memory.set, Memory.wfFrom, hlo, ha]
  | cons c rest ih =>
    obtain ⟨b, w⟩ := c
    simp only [Memory.wfFrom, Bool.and_eq_true, decide_eq_true_eq] at hm
    rcases Nat.lt_trichotomy a b with h | h | h
    · simp only [Memory.set, h, if_true, Memory.wfFrom, Bool.and_eq_true, decide_eq_true_eq]
      exact ⟨⟨hlo, ha⟩, ⟨by omega, hm.1.2⟩, hm.2⟩
    · subst h
      simp only [Memory.set, lt_irrefl, if_false, if_true, Memory.wfFrom, Bool.and_eq_true, decide_eq_true_eq]
      exact hm
    · have h1 : ¬ a < b := by omega
      have h2 : a ≠ b := by omega
      simp only [Memory.set, h1, h2, if_false, Memory.wfFrom, Bool.and_eq_true, decide_eq_true_eq]
      exact ⟨hm.1, ih (by omega) hm.2⟩

theorem Memory.wf_set {size a : Nat} {m : Memory} {v : Byte} (ha : a < size) (hm : Memory.wf size m = true) :
    Memory.wf size (Memory.set m a v) = true := Memory.wfFrom_set (Nat.zero_le a) ha hm

/-- Written bytes keep the canonical form. -/
theorem Memory.wf_setBytes {size a : Nat} {m : Memory} {bs : List Byte} (ha : a + bs.length ≤ size)
    (hm : Memory.wf size m = true) : Memory.wf size (Memory.setBytes m a bs) = true := by
  induction bs generalizing m a with
  | nil => exact hm
  | cons b bs ih =>
    rw [List.length_cons] at ha
    exact ih (by omega) (Memory.wf_set (by omega) hm)

end Sys2Proof.Machine
end

