-- ==== Sys2Proof/Laws/Bytes.lean ====
section
/-! SUPPORT. The laws of the memory primitives (00_scope.md R12): lengths, and a big-endian field read back from the
bytes that were stored for it. -/

namespace Sys2Proof.Machine

@[simp] theorem length_beBytes (n v : Nat) : (beBytes n v).length = n := by
  induction n <;> simp_all [beBytes]

@[simp] theorem length_slice (S : Space) (a n : Nat) : (slice S a n).length = n := by
  induction n generalizing a <;> simp_all [slice]

@[simp] theorem length_zeros (n : Nat) : (zeros n).length = n := by simp [zeros]

@[simp] theorem length_encodeHeader (c m l : Half) (t : Tid) : (encodeHeader c m l t).length = 20 := by
  simp [encodeHeader]

theorem length_attrBytes (t : Half) (l : Nat) (v : List Byte) :
    (attrBytes t l v).length = 4 + v.length + pad l := by
  simp [attrBytes]; omega

theorem getElem?_slice (S : Space) (a n i : Nat) : (slice S a n)[i]? = if i < n then some (S (a + i)) else none := by
  induction n generalizing a i with
  | zero => simp [slice]
  | succ n ih =>
    cases i with
    | zero => simp [slice]
    | succ i =>
      simp only [slice, List.getElem?_cons_succ, ih, Nat.succ_lt_succ_iff]
      rw [show a + 1 + i = a + (i + 1) by omega]

@[simp] theorem getElem_slice (S : Space) (a n i : Nat) (h : i < (slice S a n).length) :
    (slice S a n)[i] = S (a + i) := by
  have h1 := getElem?_slice S a n i
  rw [length_slice] at h
  rw [List.getElem?_eq_getElem (by simpa using h), if_pos h] at h1
  exact Option.some.inj h1

/-- A field reads the bytes that stand at its offsets, whatever else the space holds. -/
theorem memRead_congr {S T : Space} {a b n : Nat} (h : ∀ i, i < n → S (a + i) = T (b + i)) :
    memRead S a n = memRead T b n := by
  induction n generalizing a b with
  | zero => rfl
  | succ n ih =>
    have h0 := h 0 (by omega)
    simp only [Nat.add_zero] at h0
    rw [memRead, memRead, h0]
    congr 1
    exact ih fun i hi => by
      have := h (i + 1) (by omega)
      rwa [show a + 1 + i = a + (i + 1) by omega, show b + 1 + i = b + (i + 1) by omega]

theorem read16_congr {S T : Space} {a b : Nat} (h : ∀ i, i < 2 → S (a + i) = T (b + i)) :
    read16 S a = read16 T b := by rw [read16, read16, memRead_congr h]

theorem read32_congr {S T : Space} {a b : Nat} (h : ∀ i, i < 4 → S (a + i) = T (b + i)) :
    read32 S a = read32 T b := by rw [read32, read32, memRead_congr h]

/-- R12: `MemRead` of what `MemWrite` stored gives the stored value, cut to its width. -/
theorem memRead_of_beBytes {S : Space} {a n v : Nat} (h : ∀ i, (hi : i < n) → S (a + i) = (beBytes n v)[i]'(by rwa [length_beBytes])) :
    memRead S a n = v % 256 ^ n := by
  induction n generalizing a with
  | zero => simp [memRead, Nat.mod_one]
  | succ n ih =>
    have h0 := h 0 (by omega)
    simp only [Nat.add_zero, beBytes, List.getElem_cons_zero] at h0
    have hr : memRead S (a + 1) n = v % 256 ^ n := ih fun i hi => by
      have := h (i + 1) (by omega)
      simpa [beBytes, show a + 1 + i = a + (i + 1) by omega] using this
    have hm : v % 256 ^ (n + 1) = v % 256 ^ n + 256 ^ n * (v / 256 ^ n % 256) := by rw [pow_succ, Nat.mod_mul]
    rw [memRead, h0, hr, BitVec.toNat_ofNat, hm, Nat.mul_comm]
    norm_num
    omega

theorem read16_of_beBytes {S : Space} {a : Nat} {v : Half}
    (h : ∀ i, (hi : i < 2) → S (a + i) = (beBytes 2 v.toNat)[i]'(by rwa [length_beBytes])) : read16 S a = v := by
  rw [read16, memRead_of_beBytes h]
  apply BitVec.eq_of_toNat_eq
  have := v.isLt
  rw [BitVec.toNat_ofNat, Nat.mod_eq_of_lt (by omega), Nat.mod_eq_of_lt (by omega)]

theorem read32_of_beBytes {S : Space} {a : Nat} {v : Word}
    (h : ∀ i, (hi : i < 4) → S (a + i) = (beBytes 4 v.toNat)[i]'(by rwa [length_beBytes])) : read32 S a = v := by
  rw [read32, memRead_of_beBytes h]
  apply BitVec.eq_of_toNat_eq
  have := v.isLt
  rw [BitVec.toNat_ofNat, Nat.mod_eq_of_lt (by omega), Nat.mod_eq_of_lt (by omega)]

/-- R97: padding completes a multiple of 4, with at most 3 bytes. -/
theorem padded_mod (l : Nat) : padded l % 4 = 0 := by unfold padded pad; omega

theorem pad_lt (l : Nat) : pad l < 4 := by unfold pad; omega

theorem wireSize_mod (l : Nat) : wireSize l % 4 = 0 := by unfold wireSize padded pad; omega

/-- R174: in a section that ends 4-byte aligned the two forms of the framing check agree. -/
theorem framing_forms_agree {o stop l : Nat} (ho : o % 4 = 0) (hs : stop % 4 = 0) :
    o + 4 + l ≤ stop ↔ o + wireSize l ≤ stop := by unfold wireSize padded pad; omega

end Sys2Proof.Machine
end

