-- ==== Sys2Proof/Laws/Codec.lean ====
section
/-! SUPPORT. One spec lemma per shared operation of the codecs: everything it can do, for provers to cite instead of
unfolding it. -/

namespace Sys2Proof.Machine

/-! ## Buffers after written bytes, as spaces -/

theorem mbSpace_setBytes (s : State) (a : Nat) (bs : List Byte) (x : Nat) :
    ({ s with mb := Memory.setBytes s.mb a bs }).mbSpace x =
      if h : a ≤ x ∧ x < a + bs.length then bs[x - a]'(by omega) else s.mbSpace x :=
  getD_get?_setBytes s.mb a x bs _

theorem vbSpace_setBytes (s : State) (a : Nat) (bs : List Byte) (x : Nat) :
    ({ s with vb := Memory.setBytes s.vb a bs }).vbSpace x =
      if h : a ≤ x ∧ x < a + bs.length then bs[x - a]'(by omega) else s.vbSpace x :=
  getD_get?_setBytes s.vb a x bs _

/-! ## The header decode (41_header_codec.md R139 to R148) -/

/-- A header that passes: every check of R141 holds, and the fields are the header's own. -/
theorem decodeHeaderAs_eq_ok {mt : Half} {B : Space} {n : Nat} {tidchk : Bool} {exp : Tid} {h : Header} :
    decodeHeaderAs mt B n tidchk exp = .ok h ↔
      (20 ≤ n ∧ n ≤ Config.mbSize) ∧ mt &&& leadingMask = 0#16 ∧ read32 B 4 = cookie ∧
      (Config.classSet.contains (mt &&& classMask) = true ∧ Config.methodSet.contains (mt &&& methodMask) = true) ∧
      ((read16 B 2).toNat % 4 = 0 ∧ 20 + (read16 B 2).toNat = n) ∧ (tidchk = true → readTid B 8 = exp) ∧
      h = { cls := mt &&& classMask, method := mt &&& methodMask, len := read16 B 2, tid := readTid B 8 } := by
  unfold decodeHeaderAs
  simp only
  split
  · next h1 => simp; omega
  · next h1 =>
    split
    · next h2 => simp [h2]
    · next h2 =>
      split
      · next h3 => simp [h3]
      · next h3 =>
        split
        · next h4 =>
          simp only [Bool.not_eq_true', Bool.and_eq_false_iff] at h4
          simp only [reduceCtorEq, false_iff, not_and]
          rintro - - - a b
          simp_all
        · next h4 =>
          simp only [Bool.not_eq_true', Bool.and_eq_false_iff, not_or, Bool.not_eq_false] at h4
          split
          · next h5 => simp; omega
          · next h5 =>
            split
            · next h6 => simp [h6]
            · next h6 =>
              simp only [Except.ok.injEq, ne_eq, not_not, not_and] at *
              constructor
              · rintro rfl
                exact ⟨by omega, h2, h3, h4, by omega, h6, rfl⟩
              · rintro ⟨-, -, -, -, -, -, rfl⟩
                rfl

/-- A header decode fails only with the ParseError codes of HDR_DEC (R265). -/
theorem decodeHeaderAs_error {mt : Half} {B : Space} {n : Nat} {tidchk : Bool} {exp : Tid} {e : ErrCode}
    (h : decodeHeaderAs mt B n tidchk exp = .error e) :
    e = .length ∨ e = .leadBits ∨ e = .cookie ∨ e = .type ∨ e = .tid := by
  unfold decodeHeaderAs at h
  simp only at h
  repeat' split at h
  all_goals simp_all

/-- A HDR_DEC, or a message-type instruction: it fails as a whole or commits as a whole (R147, R148). -/
theorem hdrDecode_cases {mt : Half} {s t : State} (h : hdrDecode mt s = .next t) :
    (∃ e, decodeHeaderAs mt s.mbSpace s.rxLen.toNat s.tidchk s.expTid = .error e ∧ t = s.parseError opHdrDec e) ∨
    (∃ hd, decodeHeaderAs mt s.mbSpace s.rxLen.toNat s.tidchk s.expTid = .ok hd ∧
      t = State.succeed { s with
        hClass := hd.cls, hMethod := hd.method, hLen := hd.len, hTid := hd.tid
        cur := 20, endOff := BitVec.ofNat 17 (20 + hd.len.toNat), mode := .dec }) := by
  unfold hdrDecode at h
  split at h
  · next e he => exact .inl ⟨e, he, ((raiseParseError_eq_next _ _ _ _).mp h).symm⟩
  · next hd he => exact .inr ⟨hd, he, ((done_eq_next _ _).mp h).symm⟩

/-- It always answers a next state. -/
theorem hdrDecode_next (mt : Half) (s : State) : ∃ t, hdrDecode mt s = .next t := by
  unfold hdrDecode
  split
  · exact ⟨_, rfl⟩
  · exact ⟨_, rfl⟩

/-! ## The attribute decode (42_attribute_codec.md R171 to R185) -/

/-- What an address value records and how it ends, whatever the masks (R176 to R180). -/
theorem decodeAddress_spec (xor : Bool) (pmask : Half) (amask : Word) (B : Space) (o l : Nat) (r : AttrRecord) :
    let d := decodeAddress xor pmask amask B o l r
    (d.record.typ = r.typ ∧ d.record.len = r.len ∧ d.record.kind = r.kind ∧ d.record.off = r.off ∧
      d.record.voff = r.voff) ∧
    (r.addrLen = 0 → d.record.addrLen = 0 ∨ d.record.addrLen = 4) ∧ d.text = [] ∧
    (∀ e, d.err = some e → e = .length ∨ e = .reserved ∨ e = .fingerprint) := by
  unfold decodeAddress
  by_cases h1 : l < 4
  · simp +contextual [h1]
  · by_cases h2 : B (o + 4) = 0#8
    · by_cases h3 : B (o + 4 + 1) = familyIPv4 <;> by_cases h4 : l < 8 <;> simp +contextual [h1, h2, h3, h4]
    · simp +contextual [h1, h2]

/-- The same of a Fingerprint value (R182). -/
theorem decodeFingerprint_spec (B : Space) (o l : Nat) (r : AttrRecord) :
    let d := decodeFingerprint B o l r
    (d.record.typ = r.typ ∧ d.record.len = r.len ∧ d.record.kind = r.kind ∧ d.record.off = r.off ∧
      d.record.voff = r.voff) ∧
    (r.addrLen = 0 → d.record.addrLen = 0 ∨ d.record.addrLen = 4) ∧ d.text = [] ∧
    (∀ e, d.err = some e → e = .length ∨ e = .reserved ∨ e = .fingerprint) := by
  unfold decodeFingerprint
  generalize fingerprintAt B o = f
  by_cases h1 : l = 4
  · by_cases h2 : f = read32 B (o + 4) <;> simp +contextual [h1, h2]
  · simp +contextual [h1]

/-- What every value records and how it ends: the five fields of every variant stay (R173), the address length is 0
or 4 (R46), only Software has bytes for VB, its `l` value bytes (R181), and the failures are ATTR_DEC's ParseErrors
(R265). -/
theorem valueDecoder_spec (k : Kind) (B : Space) (o l : Nat) (r : AttrRecord) :
    let d := valueDecoder k B o l r
    (d.record.typ = r.typ ∧ d.record.len = r.len ∧ d.record.kind = r.kind ∧ d.record.off = r.off ∧
      d.record.voff = r.voff) ∧
    (r.addrLen = 0 → d.record.addrLen = 0 ∨ d.record.addrLen = 4) ∧
    d.text = (if k = .software then slice B (o + 4) l else []) ∧
    (∀ e, d.err = some e → e = .length ∨ e = .reserved ∨ e = .fingerprint) := by
  cases k with
  | generic => simp +contextual [valueDecoder, decodeGeneric]
  | mapped => exact decodeAddress_spec false 0 0 B o l r
  | xorMapped => exact decodeAddress_spec true cookieHi16 cookie B o l r
  | software => simp +contextual [valueDecoder, decodeSoftware]
  | fingerprint => exact decodeFingerprint_spec B o l r

/-- An attribute outside the section fails with E_LENGTH before its value is read (R174). -/
theorem decodeAttrAs_unframed {t : Half} {k : Kind} {value : ValueDecoder} {B : Space} {o stop : Nat}
    (h : stop < o + wireSize (attrLength B o)) :
    decodeAttrAs t k value B o stop =
      { record := { AttrRecord.zero with
          off := BitVec.ofNat 17 o, voff := BitVec.ofNat 17 (o + 4), typ := t, len := read16 B (o + 2), kind := k }
        text := [], err := some .length } := by
  unfold decodeAttrAs
  simp only [h, if_true]
  simp [attrLength]

/-- A framed attribute is its value's. -/
theorem decodeAttrAs_framed {t : Half} {k : Kind} {value : ValueDecoder} {B : Space} {o stop : Nat}
    (h : o + wireSize (attrLength B o) ≤ stop) :
    decodeAttrAs t k value B o stop =
      value B o (attrLength B o) { AttrRecord.zero with
        off := BitVec.ofNat 17 o, voff := BitVec.ofNat 17 (o + 4), typ := t, len := read16 B (o + 2), kind := k } := by
  unfold decodeAttrAs
  simp only [Nat.not_lt.mpr h, if_false]
  simp [attrLength]

/-- An attribute that decodes lies inside the section (R174). -/
theorem decodeAttrAs_err_none {t : Half} {k : Kind} {value : ValueDecoder} {B : Space} {o stop : Nat}
    (h : (decodeAttrAs t k value B o stop).err = none) : o + wireSize (attrLength B o) ≤ stop := by
  by_contra hn
  rw [decodeAttrAs_unframed (by omega)] at h
  simp at h

/-- What every decoded attribute records, framed or not (R173). -/
theorem decodeAttrAs_heads (t : Half) (k : Kind) (B : Space) (o stop : Nat) :
    let r := (decodeAttrAs t k (valueDecoder k) B o stop).record
    r.typ = t ∧ r.len = read16 B (o + 2) ∧ r.kind = k ∧ r.off = BitVec.ofNat 17 o ∧
    r.voff = BitVec.ofNat 17 (o + 4) ∧ (r.addrLen = 0 ∨ r.addrLen = 4) := by
  rcases Nat.lt_or_ge stop (o + wireSize (attrLength B o)) with h | h
  · rw [decodeAttrAs_unframed h]; simp [AttrRecord.zero]
  · rw [decodeAttrAs_framed h]
    obtain ⟨⟨h1, h2, h3, h4, h5⟩, h6, -⟩ := valueDecoder_spec k B o (attrLength B o) { AttrRecord.zero with
      off := BitVec.ofNat 17 o, voff := BitVec.ofNat 17 (o + 4), typ := t, len := read16 B (o + 2), kind := k }
    exact ⟨h1, h2, h3, h4, h5, h6 rfl⟩

/-- An attribute fails only with the ParseError codes of ATTR_DEC (R265). -/
theorem decodeAttrAs_err {t : Half} {k : Kind} {B : Space} {o stop : Nat} {e : ErrCode}
    (h : (decodeAttrAs t k (valueDecoder k) B o stop).err = some e) :
    e = .length ∨ e = .reserved ∨ e = .fingerprint := by
  rcases Nat.lt_or_ge stop (o + wireSize (attrLength B o)) with h1 | h1
  · rw [decodeAttrAs_unframed h1] at h; simp at h; exact .inl h.symm
  · rw [decodeAttrAs_framed h1] at h; exact (valueDecoder_spec _ _ _ _ _).2.2.2 _ h

/-- The bytes an attribute puts into VB: none, or the value bytes of a framed Software. -/
theorem decodeAttrAs_text (t : Half) (k : Kind) (B : Space) (o stop : Nat) :
    (decodeAttrAs t k (valueDecoder k) B o stop).text =
      if k = .software ∧ o + wireSize (attrLength B o) ≤ stop then slice B (o + 4) (attrLength B o) else [] := by
  rcases Nat.lt_or_ge stop (o + wireSize (attrLength B o)) with h1 | h1
  · rw [decodeAttrAs_unframed h1, if_neg (by omega)]
  · rw [decodeAttrAs_framed h1, (valueDecoder_spec _ _ _ _ _).2.2.1]; simp [h1]

/-- An ATTR_DEC, or an attribute-type instruction: refused, failed or walked (R172, R173, R185). -/
theorem attrDecode_cases {t : Half} {k : Kind} {value : ValueDecoder} {s u : State}
    (h : attrDecode t k value s = .next u) :
    ((s.mode ≠ .dec ∨ s.endOff.toNat ≤ s.cur.toNat) ∧ u = s.refusal opAttrDec .seq) ∨
    (s.mode = .dec ∧ s.cur.toNat < s.endOff.toNat ∧
      (20 ≤ s.cur.toNat ∧ s.cur.toNat + 4 ≤ Config.mbSize ∧ s.endOff.toNat ≤ Config.mbSize) ∧
      ((∃ e, (decodeAttrAs t k value s.mbSpace s.cur.toNat s.endOff.toNat).err = some e ∧
        u = State.parseError opAttrDec e
          { s with attr := (decodeAttrAs t k value s.mbSpace s.cur.toNat s.endOff.toNat).record }) ∨
      ((decodeAttrAs t k value s.mbSpace s.cur.toNat s.endOff.toNat).err = none ∧
        u = State.succeed { s with
          attr := (decodeAttrAs t k value s.mbSpace s.cur.toNat s.endOff.toNat).record
          vb := Memory.setBytes s.vb 0 (decodeAttrAs t k value s.mbSpace s.cur.toNat s.endOff.toNat).text
          cur := BitVec.ofNat 17 (s.cur.toNat + wireSize (attrLength s.mbSpace s.cur.toNat)) }))) := by
  unfold attrDecode at h
  simp only at h
  split at h
  · next h1 => exact .inl ⟨h1, ((raiseRefusal_eq_next _ _ _ _).mp h).symm⟩
  · next h1 =>
    split at h
    · cases h
    · next h2 =>
      simp only [not_or, ne_eq, not_not] at h1
      refine .inr ⟨h1.1, by omega, by omega, ?_⟩
      split at h
      · next e he => exact .inl ⟨e, he, ((raiseParseError_eq_next _ _ _ _).mp h).symm⟩
      · next he => exact .inr ⟨he, ((done_eq_next _ _).mp h).symm⟩

/-- Where the cursor and the section lie in MB it answers a next state. -/
theorem attrDecode_next {t : Half} {k : Kind} {value : ValueDecoder} {s : State}
    (h : s.mode = .dec → s.cur.toNat < s.endOff.toNat →
      20 ≤ s.cur.toNat ∧ s.cur.toNat + 4 ≤ Config.mbSize ∧ s.endOff.toNat ≤ Config.mbSize) :
    ∃ u, attrDecode t k value s = .next u := by
  unfold attrDecode
  simp only
  split
  · exact ⟨_, rfl⟩
  · next h1 =>
    simp only [not_or, ne_eq, not_not] at h1
    have := h h1.1 (by omega)
    rw [if_neg (by omega)]
    split
    · exact ⟨_, rfl⟩
    · exact ⟨_, rfl⟩

/-! ## The attribute encode (42_attribute_codec.md R161 to R170) -/

/-- An ATTR_ENC: refused by the first test that holds, or the attribute is appended (R165). -/
theorem execAttrEnc_cases {s t : State} (h : execAttrEnc s = .next t) :
    (∃ e, (e = .seq ∧ s.mode ≠ .enc ∨ (e = .unsupp ∨ e = .overflow) ∧ s.mode = .enc) ∧ t = s.refusal opAttrEnc e) ∨
    (s.mode = .enc ∧ kindOf s.attr.typ ≠ .generic ∧ 20 ≤ s.cur.toNat ∧
      s.cur.toNat + wireSize (valueLength (kindOf s.attr.typ) s.attr) ≤ Config.mbSize ∧
      t = (appendAttr (kindOf s.attr.typ) s).succeed) := by
  unfold execAttrEnc at h
  simp only at h
  split at h
  · next h1 => exact .inl ⟨.seq, .inl ⟨rfl, h1⟩, ((raiseRefusal_eq_next _ _ _ _).mp h).symm⟩
  · next h1 =>
    rw [not_not] at h1
    split at h
    · exact .inl ⟨.unsupp, .inr ⟨.inl rfl, h1⟩, ((raiseRefusal_eq_next _ _ _ _).mp h).symm⟩
    · next h2 =>
      split at h
      · exact .inl ⟨.unsupp, .inr ⟨.inl rfl, h1⟩, ((raiseRefusal_eq_next _ _ _ _).mp h).symm⟩
      · split at h
        · exact .inl ⟨.overflow, .inr ⟨.inr rfl, h1⟩, ((raiseRefusal_eq_next _ _ _ _).mp h).symm⟩
        · split at h
          · cases h
          · exact .inr ⟨h1, h2, by omega, by omega, ((done_eq_next _ _).mp h).symm⟩

/-- The number of value bytes is the value length (R162). -/
theorem length_encodeValue (k : Kind) (M V : Space) (o : Nat) (r r' : AttrRecord) :
    (encodeValue k M V o (valueLength k r) r').2.length = valueLength k r := by
  cases k <;> simp [encodeValue, valueLength]

/-- A record of value length `l` has `4 + padded l` bytes (R96). -/
theorem length_attrBytes_encodeValue (t : Half) (k : Kind) (M V : Space) (o : Nat) (r r' : AttrRecord) :
    (attrBytes t (valueLength k r) (encodeValue k M V o (valueLength k r) r').2).length =
      wireSize (valueLength k r) := by
  rw [length_attrBytes, length_encodeValue]; unfold wireSize padded; omega

@[simp] theorem appendAttr_ctrl (k : Kind) (s : State) : (appendAttr k s).ctrl = s.ctrl := rfl
@[simp] theorem appendAttr_mode (k : Kind) (s : State) : (appendAttr k s).mode = s.mode := rfl
@[simp] theorem appendAttr_firstCode (k : Kind) (s : State) : (appendAttr k s).firstCode = s.firstCode := rfl
@[simp] theorem appendAttr_firstOp (k : Kind) (s : State) : (appendAttr k s).firstOp = s.firstOp := rfl
@[simp] theorem appendAttr_rxLen (k : Kind) (s : State) : (appendAttr k s).rxLen = s.rxLen := rfl
@[simp] theorem appendAttr_txLen (k : Kind) (s : State) : (appendAttr k s).txLen = s.txLen := rfl
@[simp] theorem appendAttr_endOff (k : Kind) (s : State) : (appendAttr k s).endOff = s.endOff := rfl
@[simp] theorem appendAttr_hClass (k : Kind) (s : State) : (appendAttr k s).hClass = s.hClass := rfl
@[simp] theorem appendAttr_hMethod (k : Kind) (s : State) : (appendAttr k s).hMethod = s.hMethod := rfl
@[simp] theorem appendAttr_hTid (k : Kind) (s : State) : (appendAttr k s).hTid = s.hTid := rfl
@[simp] theorem appendAttr_expTid (k : Kind) (s : State) : (appendAttr k s).expTid = s.expTid := rfl
@[simp] theorem appendAttr_crcStart (k : Kind) (s : State) : (appendAttr k s).crcStart = s.crcStart := rfl
@[simp] theorem appendAttr_crcEnd (k : Kind) (s : State) : (appendAttr k s).crcEnd = s.crcEnd := rfl
@[simp] theorem appendAttr_crcRes (k : Kind) (s : State) : (appendAttr k s).crcRes = s.crcRes := rfl
@[simp] theorem appendAttr_vb (k : Kind) (s : State) : (appendAttr k s).vb = s.vb := rfl
@[simp] theorem appendAttr_vbSpace (k : Kind) (s : State) : (appendAttr k s).vbSpace = s.vbSpace := rfl
@[simp] theorem appendAttr_port (k : Kind) (s : State) : (appendAttr k s).port = s.port := rfl
@[simp] theorem appendAttr_reply (k : Kind) (s : State) : (appendAttr k s).reply = s.reply := rfl
@[simp] theorem appendAttr_draws (k : Kind) (s : State) : (appendAttr k s).draws = s.draws := rfl
@[simp] theorem appendAttr_epoch (k : Kind) (s : State) : (appendAttr k s).epoch = s.epoch := rfl
@[simp] theorem appendAttr_hLen (k : Kind) (s : State) :
    (appendAttr k s).hLen = s.hLen + BitVec.ofNat 16 (wireSize (valueLength k s.attr)) := rfl
@[simp] theorem appendAttr_cur (k : Kind) (s : State) :
    (appendAttr k s).cur = BitVec.ofNat 17 (s.cur.toNat + wireSize (valueLength k s.attr)) := rfl

/-- The state in which ATTR_ENC computes the value: the length is already rewritten (R164). -/
def lengthened (k : Kind) (s : State) : State :=
  { s with
    hLen := s.hLen + BitVec.ofNat 16 (wireSize (valueLength k s.attr))
    mb := Memory.setBytes s.mb 2 (beBytes 2 (s.hLen + BitVec.ofNat 16 (wireSize (valueLength k s.attr))).toNat) }

/-- The record ATTR_ENC starts from: offsets, length, kind; the result fields 0. -/
def startRecord (k : Kind) (s : State) : AttrRecord :=
  { s.attr with
    off := BitVec.ofNat 17 s.cur.toNat, voff := BitVec.ofNat 17 (s.cur.toNat + 4)
    len := BitVec.ofNat 16 (valueLength k s.attr), kind := k, addrLen := 0, xport := 0, xaddr := 0, fp := 0 }

theorem appendAttr_attr (k : Kind) (s : State) :
    (appendAttr k s).attr =
      (encodeValue k (lengthened k s).mbSpace s.vbSpace s.cur.toNat (valueLength k s.attr) (startRecord k s)).1 := rfl

theorem appendAttr_mb (k : Kind) (s : State) :
    (appendAttr k s).mb = Memory.setBytes (lengthened k s).mb s.cur.toNat
      (attrBytes s.attr.typ (valueLength k s.attr)
        (encodeValue k (lengthened k s).mbSpace s.vbSpace s.cur.toNat (valueLength k s.attr) (startRecord k s)).2) := rfl

/-- MB after the length is rewritten. -/
theorem lengthened_mbSpace (k : Kind) (s : State) (x : Nat) :
    (lengthened k s).mbSpace x =
      if x = 2 then (beBytes 2 (lengthened k s).hLen.toNat)[0]'(by simp)
      else if x = 3 then (beBytes 2 (lengthened k s).hLen.toNat)[1]'(by simp)
      else s.mbSpace x := by
  have h := mbSpace_setBytes s 2
    (beBytes 2 (s.hLen + BitVec.ofNat 16 (wireSize (valueLength k s.attr))).toNat) x
  simp only [length_beBytes] at h
  change (lengthened k s).mbSpace x = _ at h
  rw [h]
  by_cases h2 : x = 2
  · subst h2; simp [lengthened]
  · by_cases h3 : x = 3
    · subst h3; simp [lengthened]
    · rw [dif_neg (by omega), if_neg h2, if_neg h3]

/-- MB after an appended attribute: its record from CUR on, the new length at 2 and 3, every other byte as before. -/
theorem appendAttr_mbSpace (k : Kind) (s : State) (x : Nat) :
    (appendAttr k s).mbSpace x =
      if h : s.cur.toNat ≤ x ∧ x < s.cur.toNat + wireSize (valueLength k s.attr) then
        (attrBytes s.attr.typ (valueLength k s.attr)
          (encodeValue k (lengthened k s).mbSpace s.vbSpace s.cur.toNat (valueLength k s.attr)
            (startRecord k s)).2)[x - s.cur.toNat]'(by rw [length_attrBytes_encodeValue]; omega)
      else (lengthened k s).mbSpace x := by
  have h := mbSpace_setBytes (lengthened k s) s.cur.toNat
    (attrBytes s.attr.typ (valueLength k s.attr)
      (encodeValue k (lengthened k s).mbSpace s.vbSpace s.cur.toNat (valueLength k s.attr) (startRecord k s)).2) x
  simp only [length_attrBytes_encodeValue] at h
  exact h

/-- The record after an appended attribute keeps the operands the host wrote (R161). -/
theorem encodeValue_keeps (k : Kind) (M V : Space) (o l : Nat) (r : AttrRecord) :
    (encodeValue k M V o l r).1.typ = r.typ ∧ (encodeValue k M V o l r).1.len = r.len ∧
    (encodeValue k M V o l r).1.kind = r.kind ∧ (encodeValue k M V o l r).1.family = r.family ∧
    (encodeValue k M V o l r).1.port = r.port ∧ (encodeValue k M V o l r).1.addr = r.addr ∧
    (encodeValue k M V o l r).1.off = r.off ∧ (encodeValue k M V o l r).1.voff = r.voff ∧
    (r.addrLen = 0 → (encodeValue k M V o l r).1.addrLen = 0 ∨ (encodeValue k M V o l r).1.addrLen = 4) := by
  cases k <;> simp +contextual [encodeValue]

/-! ## Instructions of one command -/

/-- Every message-type instruction, and HDR_DEC, is a header decode of some message type. -/
theorem exec_of_header {i : Instr} (hw : i.wf = true) (hc : commandCode i = 0x12#8) (s : State) :
    ∃ mt, exec i s = hdrDecode mt s := by
  cases i <;> first
    | exact ⟨_, rfl⟩
    | (exfalso; revert hc; simp [commandCode]; done)
    | (exfalso; simp only [commandCode] at hc; subst hc; revert hw; decide)

/-- The type code an attribute instruction decodes in a state. -/
theorem exec_of_attribute {i : Instr} (hw : i.wf = true) (hc : commandCode i = 0x21#8) (s : State) :
    ∃ t, exec i s = attrDecode t (kindOf t) (valueDecoder (kindOf t)) s := by
  cases i with
  | attrDec => exact ⟨_, rfl⟩
  | mappedAddress => exact ⟨typeMappedAddress, rfl⟩
  | xorMappedAddress => exact ⟨typeXorMappedAddress, rfl⟩
  | software => exact ⟨typeSoftware, rfl⟩
  | fingerprint => exact ⟨typeFingerprint, rfl⟩
  | generic t =>
    refine ⟨t, ?_⟩
    have : kindOf t = .generic := by
      simp only [Instr.wf, Bool.and_eq_true, bne_iff_ne] at hw
      simp [kindOf, hw.1.1.1, hw.1.1.2, hw.1.2, hw.2]
    rw [this]; rfl
  | cmdUndefined op => exfalso; simp only [commandCode] at hc; subst hc; revert hw; decide
  | _ => exfalso; revert hc; simp [commandCode]

end Sys2Proof.Machine
end

