-- ==== Sys2Proof/Laws/Frames.lean ====
section
/-! SUPPORT. What the shared operations do, in the terms the claims use: the frames of Safety.lean proved once of each
end of a command, the checks of a header and the fields of an attribute by bytes, and the ways every instruction can
end. Provers cite these instead of unfolding a meaning. -/

namespace Sys2Proof.Machine

/-! ## Words, and the instructions a word is read as -/

/-- Two bytes taken as a word and cut again. -/
theorem bytesOfHalf_halfOfBytes (a b : Byte) : bytesOfHalf (halfOfBytes a b) = [a, b] := by
  have := a.isLt; have := b.isLt
  simp only [bytesOfHalf, halfOfBytes, BitVec.toNat_ofNat, List.cons.injEq, and_true]
  constructor <;> apply BitVec.eq_of_toNat_eq <;> simp only [BitVec.toNat_ofNat] <;> omega

/-- A 16-bit field as the decoder reads it (R60). -/
theorem read16_eq_halfOfBytes (S : Space) (a : Nat) : read16 S a = halfOfBytes (S a) (S (a+1)) := by
  simp [read16, memRead, halfOfBytes]

/-- A message type read as a whole is the header decode of that word. -/
theorem exec_decodeMsgType (m : Half) (s) : exec (decodeMsgType m) s = hdrDecode m s := by
  unfold decodeMsgType msgTypeRows
  simp only [List.lookup]
  by_cases h1 : m = 1#16; · subst h1; rfl
  by_cases h2 : m = 0x11#16; · subst h2; rfl
  by_cases h3 : m = 0x101#16; · subst h3; rfl
  by_cases h4 : m = 0x111#16; · subst h4; rfl
  rw [show (m == 1#16) = false by simpa using h1, show (m == 17#16) = false by simpa using h2,show (m == 257#16) = false by simpa using h3,show (m == 273#16) = false by simpa using h4]
  rfl

/-- A type code read as an instruction is the attribute decode of that code. -/
theorem exec_decodeAttrType (m : Half) (s) : exec (decodeAttrType m) s = attrDecode m (kindOf m) (valueDecoder (kindOf m)) s := by
    unfold decodeAttrType attrTypeRows typeMappedAddress typeXorMappedAddress typeSoftware typeFingerprint
    simp only [List.lookup]
    by_cases h1 : m = 1#16; · subst h1; rfl
    by_cases h2 : m = 0x20#16; · subst h2; rfl
    by_cases h3 : m = 0x8022#16; · subst h3; rfl
    by_cases h4 : m = 0x8028#16; · subst h4; rfl
    rw [show (m == 1#16) = false by simpa using h1, show (m == 0x20#16) = false by simpa using h2,show (m == 0x8022#16) = false by simpa using h3,show (m == 0x8028#16) = false by simpa using h4]
    simp only [Option.getD_none, exec, execGeneric]
    simp [kindOf, h1, h2, h3, h4, valueDecoder]

theorem half_full (m : Half) : m &&& 0xFFFF#16 = m := BitVec.and_allOnes

/-- R91: a word is its method bits and its class bits. -/
theorem half_split (m : Half) : (m &&& 0xFEEF#16) ||| (m &&& 0x0110#16) = m := by
  rw [← BitVec.and_or_distrib_left]; exact half_full m

/-- Whichever way a message type is read, it is the header decode of that word (log entry 6). -/
theorem exec_of_readsAs {m : Half} {i} (h : ReadsAs m i) (s) : exec i s = hdrDecode m s := by
  rcases h with rfl | rfl | h | h
  · exact exec_decodeMsgType m s
  · have hcl : m &&& 0x0110#16 = 0#16 ∨ m &&& 0x0110#16 = 0x10#16 ∨ m &&& 0x0110#16 = 0x100#16 ∨ m &&& 0x0110#16 = 0x110#16 := by
        rw [show (0x0110#16 : Half) = BitVec.twoPow 16 4 ||| BitVec.twoPow 16 8 by decide, BitVec.and_or_distrib_left,
          BitVec.and_twoPow, BitVec.and_twoPow]
        split <;> split <;> decide
    have hs := half_split m
    unfold decodeClass classMask methodMask
    rcases hcl with h | h | h | h <;> simp only [h] <;> rw [h] at hs <;> simp [exec, execClassRequest, execClassIndication, execClassSuccessResponse, execClassErrorResponse]
    · simp only [BitVec.or_zero] at hs; rw [hs]
    all_goals rw [hs]
  · unfold decodeLeading at h; split at h
    · cases h; rfl
    · cases h
  · unfold decodeMethod at h; split at h
    · next hl => cases h; simp only [exec, execMethodBinding]; rw [← hl]; unfold methodMask classMask; rw [half_split]
    · cases h

/-! ## Registers after the shared updates, and the ends of a command -/

/-- R55. -/
theorem Reg.read_clearRegisters (s : State) (r : Reg) : r.read s.clearRegisters = 0#32 := by
  cases r with
  | hTid i => simp [Reg.read, State.clearRegisters, State.reset]
  | expTid i => simp [Reg.read, State.clearRegisters, State.reset]
  | status => simp [Reg.read, State.status, State.more, State.clearRegisters, State.reset, Mode.toBits]
  | firstErr => simp [Reg.read, State.firstErr, State.clearRegisters, State.reset]
  | _ => rfl

theorem Reg.read_succeed (s : State) (r : Reg) (h : r ≠ .status) : r.read s.succeed = r.read s := by
  cases r <;> first | rfl | exact absurd rfl h

theorem Reg.read_refusal (op e) (s : State) (r : Reg) (h : r ∉ [Reg.status, .firstErr]) : r.read (s.refusal op e) = r.read s := by
  cases r <;> first | rfl | (exfalso; simp at h)

/-- The Refusal entry has exactly the effect of R267. -/
theorem refusal_refused (op e) (s : State) : Refused op e s (s.refusal op e) := by
  refine ⟨⟨rfl, fun h => ?_, fun h => ?_⟩, rfl, fun r hr => Reg.read_refusal op e s r hr, ⟨fun _ => rfl, fun _ => rfl⟩, rfl, rfl, rfl, rfl⟩
  · simp [State.refusal, State.recordFailure, State.firstErr, h]
  · simp [State.refusal, State.recordFailure, State.firstErr, show ¬ s.firstCode = 0#8 from h]

/-- R111. -/
theorem decodeCmd_of_undefined (op : Byte) : undefinedCode op = true → decodeCmd op = .cmdUndefined op := by
  revert op; decide +kernel

/-- R131. -/
theorem hdrOperandsOk_iff (s : State) : hdrOperandsOk s = true ↔ LegalHeader s.hClass s.hMethod := by
  simp [hdrOperandsOk, Config.classSet, Config.methodSet, LegalHeader]

/-- R133: byte `i` of a draw. -/
theorem toNat_get_tidOfBits (t : BitVec 96) (i : Fin 12) : ((tidOfBits t).get i).toNat = t.toNat / 256 ^ (11 - i.val) % 256 := by
  have : (tidOfBits t).get i = t.extractLsb' (8 * (11 - i.val)) 8 := by
    simp [tidOfBits, Vector.get, Vector.ofFn]; rfl
  rw [this]; simp [Nat.shiftRight_eq_div_pow, pow_mul]

theorem parseError_records (op e) (s : State) : Records op e s (s.parseError op e) := by
  refine ⟨rfl, fun h => ?_, fun h => ?_⟩
  · simp [State.parseError, State.recordFailure, State.firstErr, h]
  · simp [State.parseError, State.recordFailure, State.firstErr, show ¬ s.firstCode = 0#8 from h]

theorem Reg.read_parseError (op e) (s : State) (r : Reg) (h : r ∉ [Reg.status, .firstErr]) : r.read (s.parseError op e) = r.read s := by
  cases r <;> first | rfl | (exfalso; simp at h; done)

/-- The ParseError entry of a header decode (R148, R266). -/
theorem parseError_headerFailed (e) (s : State) : HeaderFailed e s (s.parseError opHdrDec e) :=
  ⟨⟨parseError_records _ _ _, rfl⟩, fun r hr => Reg.read_parseError _ _ s r hr, ⟨fun _ => rfl, fun _ => rfl⟩, rfl, rfl, rfl, rfl⟩

/-! ## The checks of a header -/

/-- R143, by bytes. -/
theorem cookieOk_iff (s : State) : read32 s.mbSpace 4 = cookie ↔ CookieOk s := by
  have h4 := (s.mbSpace 4).isLt; have h5 := (s.mbSpace 5).isLt
  have h6 := (s.mbSpace 6).isLt; have h7 := (s.mbSpace 7).isLt
  simp only [read32, memRead, cookie, CookieOk, ← BitVec.toNat_inj, BitVec.toNat_ofNat]
  norm_num
  omega

theorem halfOfBytes_eq_append (a b : Byte) : halfOfBytes a b = a ++ b := by
  apply BitVec.eq_of_toNat_eq
  have := a.isLt; have := b.isLt
  rw [BitVec.toNat_append, Nat.shiftLeft_eq, Nat.mul_comm, ← Nat.two_pow_add_eq_or_of_lt (i := 8) (by omega)]
  simp only [halfOfBytes, BitVec.toNat_ofNat]; omega

/-- R142, by the first byte. -/
theorem leadingBits_iff (s : State) : read16 s.mbSpace 0 &&& leadingMask = 0#16 ↔ (s.mbSpace 0).toNat < 0x40 := by
  rw [read16_eq_halfOfBytes, halfOfBytes_eq_append]
  generalize s.mbSpace 0 = a; generalize s.mbSpace (0+1) = b
  rw [show leadingMask = 0xC0#8 ++ 0#8 by decide, BitVec.and_append, BitVec.and_zero]
  have : a &&& 0xC0#8 = 0#8 ↔ a.toNat < 0x40 := by revert a; decide +kernel
  rw [← this]
  constructor
  · intro h; have := congrArg BitVec.toNat h
    rw [BitVec.toNat_append] at this
    apply BitVec.eq_of_toNat_eq; simp only [BitVec.toNat_ofNat, Nat.shiftLeft_eq] at this ⊢; simp at this ⊢; omega
  · intro h; rw [h]; rfl

theorem getElem_readTid (S : Space) (a i : Nat) (h : i < 12) : (readTid S a)[i] = S (a + i) := by
  unfold readTid; exact Vector.getElem_ofFn h

theorem get_readTid (S : Space) (a) (i : Fin 12) : (readTid S a).get i = S (a + i) := getElem_readTid S a i i.isLt

/-- R146, by bytes. -/
theorem tidOk_iff (s : State) : (s.tidchk = true → readTid s.mbSpace 8 = s.expTid) ↔ TidOk s := by
  unfold TidOk State.tidchk
  refine imp_congr_right fun _ => ?_
  constructor
  · intro h i; rw [← h]; exact (get_readTid _ _ _).symm
  · intro h; apply Vector.ext; intro i hi; rw [getElem_readTid]; exact h ⟨i, hi⟩

/-- R88 to R90, R142, R144: what the checks of a message type accept. -/
theorem acceptedType_iff (m : Half) : (m &&& leadingMask = 0#16 ∧ (Config.classSet.contains (m &&& classMask) = true ∧ Config.methodSet.contains (m &&& methodMask) = true)) ↔ AcceptedType m := by
  have hs := half_split m
  constructor
  · rintro ⟨h1, h2, h3⟩
    simp only [Config.methodSet, methodMask, List.contains_cons, Bool.or_eq_true, beq_iff_eq, List.contains_nil, Bool.false_eq_true, or_false] at h3
    rw [h3] at hs
    simp only [Config.classSet, classMask, List.contains_cons, Bool.or_eq_true, beq_iff_eq, List.contains_nil, Bool.false_eq_true, or_false] at h2
    rcases h2 with h | h | h | h <;> rw [h] at hs <;> subst hs <;> decide
  · rintro (rfl | rfl | rfl | rfl) <;> decide

/-! ## Header decodes -/

/-- A header decode that passes every check (R147). -/
theorem hdrDecode_committed (mt : Half) (s : State) (h1 : CountOk s) (h2 : AcceptedType mt) (h3 : CookieOk s) (h4 : LengthOk s) (h5 : TidOk s) :
    ∃ t, hdrDecode mt s = .next t ∧ HeaderCommitted mt s t := by
  rw [← cookieOk_iff] at h3; rw [← tidOk_iff] at h5
  have h2' := (acceptedType_iff mt).mpr h2
  have e := decodeHeaderAs_eq_ok (mt := mt) (B := s.mbSpace) (n := s.rxLen.toNat) (tidchk := s.tidchk) (exp := s.expTid) (h := _) |>.mpr ⟨h1, h2'.1, h3, h2'.2, h4, h5, rfl⟩
  obtain ⟨t, ht⟩ := hdrDecode_next mt s
  refine ⟨t, ht, ?_⟩
  rcases hdrDecode_cases ht with ⟨e', he, -⟩ | ⟨hd, he, rfl⟩
  · rw [e] at he; cases he
  · rw [e] at he; cases he
    refine ⟨⟨rfl, rfl⟩, rfl, rfl, ?_, rfl, ?_, rfl, ?_, fun r hr => ?_, ⟨fun _ => rfl, fun _ => rfl⟩, rfl, rfl, rfl, rfl⟩
    · show mt &&& methodMask = _; rcases h2 with rfl | rfl | rfl | rfl <;> decide
    · intro i; exact get_readTid _ _ _
    · have := (read16 s.mbSpace 2).isLt; have := s.rxLen.isLt
      simp only [State.succeed, BitVec.toNat_ofNat]; omega
    · cases r with
      | hTid i => exfalso; exact hr (List.mem_append.2 (.inr (List.mem_ofFn.2 ⟨i, rfl⟩)))
      | _ => first | rfl | (exfalso; simp [headerRegs] at hr; done)

theorem hdrDecode_of_error (mt : Half) (s : State) (e) (h : decodeHeaderAs mt s.mbSpace s.rxLen.toNat s.tidchk s.expTid = .error e) :
    hdrDecode mt s = .next (s.parseError opHdrDec e) := by
  simp [hdrDecode, h, raiseParseError]

/-- R140. -/
theorem decodeHeaderAs_count (mt : Half) (s : State) (h : ¬ CountOk s) : decodeHeaderAs mt s.mbSpace s.rxLen.toNat s.tidchk s.expTid = .error .length := by
  unfold decodeHeaderAs CountOk at *; simp only; rw [if_pos (by omega)]

/-- R142. -/
theorem decodeHeaderAs_leadBits (mt : Half) (s : State) (h : CountOk s) (h2 : mt &&& leadingMask ≠ 0#16) : decodeHeaderAs mt s.mbSpace s.rxLen.toNat s.tidchk s.expTid = .error .leadBits := by
  unfold decodeHeaderAs CountOk at *; simp only; rw [if_neg (by omega), if_pos h2]

/-- R143. -/
theorem decodeHeaderAs_cookie (mt : Half) (s : State) (h : CountOk s) (h2 : mt &&& leadingMask = 0#16) (h3 : ¬ CookieOk s) : decodeHeaderAs mt s.mbSpace s.rxLen.toNat s.tidchk s.expTid = .error .cookie := by
  rw [← cookieOk_iff] at h3
  unfold decodeHeaderAs CountOk at *; simp only; rw [if_neg (by omega), if_neg (by simpa using h2), if_pos h3]

/-- R144. -/
theorem decodeHeaderAs_type (mt : Half) (s : State) (h : CountOk s) (h2 : mt &&& leadingMask = 0#16) (h3 : CookieOk s) (h4 : ¬ AcceptedType mt) : decodeHeaderAs mt s.mbSpace s.rxLen.toNat s.tidchk s.expTid = .error .type := by
  rw [← cookieOk_iff] at h3; rw [← acceptedType_iff] at h4
  unfold decodeHeaderAs CountOk at *; simp only; rw [if_neg (by omega), if_neg (by simpa using h2), if_neg (by simpa using h3), if_pos]
  simp only [h2, true_and] at h4
  rw [Bool.not_eq_true', Bool.and_eq_false_iff, ← Bool.not_eq_true, ← Bool.not_eq_true, ← not_and_or]; exact h4

/-- R145. -/
theorem decodeHeaderAs_length (mt : Half) (s : State) (h : CountOk s) (h2 : AcceptedType mt) (h3 : CookieOk s) (h4 : ¬ LengthOk s) : decodeHeaderAs mt s.mbSpace s.rxLen.toNat s.tidchk s.expTid = .error .length := by
  rw [← cookieOk_iff] at h3; rw [← acceptedType_iff] at h2
  unfold decodeHeaderAs CountOk at *; simp only; rw [if_neg (by omega), if_neg (by simpa using h2.1), if_neg (by simpa using h3), if_neg (by simpa using h2.2), if_pos]
  unfold LengthOk at h4; omega

/-- R146. -/
theorem decodeHeaderAs_tid (mt : Half) (s : State) (h : CountOk s) (h2 : AcceptedType mt) (h3 : CookieOk s) (h4 : LengthOk s) (h5 : ¬ TidOk s) : decodeHeaderAs mt s.mbSpace s.rxLen.toNat s.tidchk s.expTid = .error .tid := by
  rw [← cookieOk_iff] at h3; rw [← acceptedType_iff] at h2; rw [← tidOk_iff] at h5
  unfold decodeHeaderAs CountOk at *; simp only; rw [if_neg (by omega), if_neg (by simpa using h2.1), if_neg (by simpa using h3), if_neg (by simpa using h2.2), if_neg, if_pos]
  · simpa using h5
  · unfold LengthOk at h4; omega

/-! ## Spaces and their fields -/

/-- R172. -/
theorem attrDecode_refused (t : Half) (k) (v) (s : State) (h : s.mode ≠ .dec ∨ s.endOff.toNat ≤ s.cur.toNat) : attrDecode t k v s = .next (s.refusal opAttrDec .seq) := by
  unfold attrDecode; simp only; rw [if_pos h]; rfl

theorem overlay_of_lt (bs : List Byte) (rest : Space) (a : Nat) (h : a < bs.length) : overlay bs rest a = bs[a] := by
  simp [overlay, h]

theorem overlay_of_ge (bs : List Byte) (rest : Space) (a : Nat) (h : bs.length ≤ a) : overlay bs rest a = rest a := by
  simp [overlay, h]

/-- R135: the fields of 20 header bytes, wherever they are read from. -/
theorem fields_of_encodeHeader (c m l : Half) (t : Tid) (S : Space) (h : ∀ a, (ha : a < 20) → S a = (encodeHeader c m l t)[a]'(by simpa using ha)) :
   read16 S 0 = m ||| c ∧ read16 S 2 = l ∧ read32 S 4 = cookie ∧ readTid S 8 = t := by
  refine ⟨?_, ?_, ?_, ?_⟩
  · apply read16_of_beBytes; intro i hi; rw [h _ (by omega)]; simp [encodeHeader, hi]
  · apply read16_of_beBytes; intro i hi; rw [h _ (by omega)]; simp [encodeHeader, hi, show 2 + i - 2 = i by omega]
  · apply read32_of_beBytes; intro i hi; rw [h _ (by omega)]; simp [encodeHeader, List.getElem_append, hi, show ¬ (4 + i < 2) by omega, show ¬ (4 + i - 2 < 2) by omega, show 4 + i - 2 -2 = i by omega]
  · apply Vector.ext; intro i hi; rw [getElem_readTid, h _ (by omega)]; simp [encodeHeader, List.getElem_append, show ¬ (8 + i < 2) by omega, show ¬ (8 + i - 2 < 2) by omega, show ¬ (8 + i - 2 - 2 < 4) by omega, show 8 + i - 2 -2 - 4= i by omega]

/-! ## Attribute encodes -/

/-- R100. -/
theorem kindOf_cases {t : Half} (h : kindOf t ≠ .generic) : (t = 1#16 ∧ kindOf t = .mapped) ∨ (t = 0x20#16 ∧ kindOf t = .xorMapped) ∨ (t = 0x8022#16 ∧ kindOf t = .software) ∨ (t = 0x8028#16 ∧ kindOf t = .fingerprint) := by
  unfold kindOf at *
  split at h
  · next hh => simp [hh]
  · split at h
    · next hh => simp [hh]
    · split at h
      · next hh => simp [hh]
      · split at h
        · next hh => simp [hh]
        · exact absurd rfl h

theorem kindOf_address_iff {t : Half} : (kindOf t = .mapped ∨ kindOf t = .xorMapped) ↔ (t = 1#16 ∨ t = 0x20#16) := by
  constructor
  · intro h
    rcases kindOf_cases (t := t) (by rcases h with h | h <;> rw [h] <;> simp) with ⟨h1, h2⟩ | ⟨h1, h2⟩ | ⟨h1, h2⟩ | ⟨h1, h2⟩ <;> simp_all
  · rintro (rfl | rfl) <;> decide

/-- ATTR_ENC where nothing refuses it (R165). -/
theorem exec_attrEnc_appends (s : State) (h : s.mode = .enc) (h2 : kindOf s.attr.typ ≠ .generic) (h3 : (s.attr.typ = 0x0001#16 ∨ s.attr.typ = 0x0020#16 → s.attr.family = 1#8))
   (h4 : 20 ≤ s.cur.toNat) (h5 : s.cur.toNat + wireSize (valueLength (kindOf s.attr.typ) s.attr) ≤ Config.mbSize) :
   exec .attrEnc s = .next ((appendAttr (kindOf s.attr.typ) s).succeed) := by
  simp only [exec, execAttrEnc]
  rw [if_neg (by simpa using h), if_neg h2, if_neg (by rw [kindOf_address_iff]; rintro ⟨a, b⟩; exact b (h3 a)), if_neg (by omega), if_neg (by omega)]; rfl

/-- R164. -/
theorem read16_lengthened (k) (s : State) : read16 (lengthened k s).mbSpace 2 = (lengthened k s).hLen := by
  apply read16_of_beBytes; intro i hi
  rw [lengthened_mbSpace]
  rcases (by omega : i = 0 ∨ i = 1) with rfl | rfl <;> simp

/-- What every appended attribute does (R164, R165). -/
theorem appendAttr_appended (k : Kind) (s : State) (h : s.mode = .enc) (_hk : k ≠ .generic) (h4 : 20 ≤ s.cur.toNat)
   (h5 : s.cur.toNat + wireSize (valueLength k s.attr) ≤ Config.mbSize) :
   Appended (wireSize (valueLength k s.attr)) s (appendAttr k s).succeed := by
  have hmb : Config.mbSize = 65552 := rfl
  have hw : wireSize (valueLength k s.attr) ≥ 4 := by unfold wireSize; omega
  obtain ⟨a1, a2, a3, a4, a5, a6, a7, a8, a9⟩ := encodeValue_keeps k (lengthened k s).mbSpace s.vbSpace s.cur.toNat (valueLength k s.attr) (startRecord k s)
  refine ⟨⟨rfl, rfl⟩, h, ?_, rfl, ?_, ?_, ?_, fun r hr => ?_, fun a ha2 ha3 hout => ?_, fun a => rfl, rfl, rfl, rfl, rfl⟩
  · simp only [State.succeed_cur, appendAttr_cur, BitVec.toNat_ofNat]; have := s.cur.isLt; omega
  · have := read16_lengthened k s
    rw [State.succeed_mbSpace]
    refine Eq.trans (read16_congr fun i hi => ?_) this
    rw [appendAttr_mbSpace, dif_neg (by omega)]
  · show (appendAttr k s).attr.off = _
    rw [appendAttr_attr, a7]; simp [startRecord]
  · show BitVec.toNat (appendAttr k s).attr.voff = _
    rw [appendAttr_attr, a8]; simp only [startRecord, BitVec.toNat_ofNat]; have := s.cur.isLt; omega
  · have t1 := appendAttr_attr k s
    cases r <;> first | rfl | (exfalso; simp at hr; done) | skip
    · simp only [Reg.read, State.succeed_attr, t1, a1]; rfl
    · simp only [Reg.read, State.succeed_attr, t1, a4]; rfl
    · simp only [Reg.read, State.succeed_attr, t1, a5]; rfl
    · simp only [Reg.read, State.succeed_attr, t1, a6]; rfl
  · rw [State.succeed_mbSpace, appendAttr_mbSpace, dif_neg (by omega), lengthened_mbSpace, if_neg ha2, if_neg ha3]

theorem appendAttr_record_byte (k : Kind) (s : State) (i : Nat) (hi : i < wireSize (valueLength k s.attr)) :
   (appendAttr k s).succeed.mbSpace (s.cur.toNat + i) = (attrBytes s.attr.typ (valueLength k s.attr)
          (encodeValue k (lengthened k s).mbSpace s.vbSpace s.cur.toNat (valueLength k s.attr)
            (startRecord k s)).2)[i]'(by rw [length_attrBytes_encodeValue]; omega) := by
  rw [State.succeed_mbSpace, appendAttr_mbSpace, dif_pos (by omega)]
  simp

/-- R96, R97: the fields of an ATTR record, wherever it is read from. -/
theorem fields_of_attrBytes (t : Half) (l : Nat) (hl : l < 65536) (v : List Byte) (S : Space) (o : Nat) (h : ∀ i, (hi : i < (attrBytes t l v).length) → S (o + i) = (attrBytes t l v)[i]) :
   read16 S o = t ∧ read16 S (o + 2) = BitVec.ofNat 16 l ∧ (∀ i, (hi : i < v.length) → S (o + 4 + i) = v[i]) ∧ (∀ i, v.length ≤ i → i < v.length + pad l → S (o + 4 + i) = 0#8) := by
  have len := length_attrBytes t l v
  refine ⟨?_, ?_, ?_, ?_⟩
  · apply read16_of_beBytes; intro i hi; rw [h _ (by omega)]; simp [attrBytes, hi]
  · apply read16_of_beBytes; intro i hi; rw [Nat.add_assoc, h _ (by omega)]; simp [attrBytes, hi, show 2 + i - 2 = i by omega, Nat.mod_eq_of_lt hl]
  · intro i hi; rw [Nat.add_assoc, h _ (by omega)]; simp [attrBytes, List.getElem_append, hi, show ¬ (4 + i < 2) by omega, show ¬ (4 + i -2 < 2) by omega, show 4 + i - 2 -2 = i by omega]
  · intro i hi hi2; rw [Nat.add_assoc, h _ (by omega)]; simp [attrBytes, List.getElem_append, zeros, show ¬ (i < v.length) by omega, show ¬ (4 + i < 2) by omega, show ¬ (4 + i -2 < 2) by omega, show 4 + i - 2 -2 = i by omega]

/-- The record ATTR_ENC leaves in MB. -/
theorem appendAttr_fields (k : Kind) (s : State) (hl : valueLength k s.attr < 65536) :
   let v := (encodeValue k (lengthened k s).mbSpace s.vbSpace s.cur.toNat (valueLength k s.attr) (startRecord k s)).2
   let S := (appendAttr k s).succeed.mbSpace
   read16 S s.cur.toNat = s.attr.typ ∧ read16 S (s.cur.toNat + 2) = BitVec.ofNat 16 (valueLength k s.attr) ∧
   (∀ i, (hi : i < v.length) → S (s.cur.toNat + 4 + i) = v[i]) ∧ (∀ i, v.length ≤ i → i < v.length + pad (valueLength k s.attr) → S (s.cur.toNat + 4 + i) = 0#8) := by
  apply fields_of_attrBytes _ _ hl
  intro i hi; exact appendAttr_record_byte k s i (by rwa [length_attrBytes_encodeValue] at hi)

theorem kindOf_1 : kindOf 1#16 = .mapped := by decide

theorem kindOf_20 : kindOf 0x20#16 = .xorMapped := by decide

theorem kindOf_8022 : kindOf 0x8022#16 = .software := by decide

theorem kindOf_8028 : kindOf 0x8028#16 = .fingerprint := by decide

theorem wireSize_8 : wireSize 8 = 12 := by decide

theorem wireSize_4 : wireSize 4 = 8 := by decide

/-- R98: the fields of an address value. -/
theorem fields_of_addressValue (S : Space) (o : Nat) (p : Half) (a : Word) (h : ∀ i, (hi : i < 8) → S (o + 4 + i) = ([0x00#8, 0x01#8] ++ beBytes 2 p.toNat ++ beBytes 4 a.toNat)[i]'(by simpa using hi)) :
  S (o + 4) = 0#8 ∧ S (o + 5) = 1#8 ∧ read16 S (o + 6) = p ∧ read32 S (o + 8) = a := by
  refine ⟨h 0 (by omega), h 1 (by omega), ?_, ?_⟩
  · apply read16_of_beBytes; intro i hi; have := h (2 + i) (by omega); rw [show o + 4 + (2 + i) = o + 6 + i by omega] at this; rw [this]; rcases (by omega : i = 0 ∨ i = 1) with rfl | rfl <;> rfl
  · apply read32_of_beBytes; intro i hi; have := h (4 + i) (by omega); rw [show o + 4 + (4 + i) = o + 8 + i by omega] at this; rw [this]; rcases (by omega : i = 0 ∨ i = 1 ∨ i = 2 ∨ i = 3) with rfl | rfl | rfl | rfl <;> rfl

/-! ## Checksums -/

theorem crcFold_congr {S T : Space} (c : Word) (a n : Nat) (h : ∀ i, i < n → S (a + i) = T (a + i)) : crcFold S c a n = crcFold T c a n := by
  induction n generalizing c a with
  | zero => rfl
  | succ n ih =>
    have h0 := h 0 (by omega); simp only [Nat.add_zero] at h0
    rw [crcFold, crcFold, h0]
    exact ih _ _ fun i hi => by have := h (i + 1) (by omega); rwa [show a + 1 + i = a + (i+1) by omega]

/-- R214: a CRC reads its range only. -/
theorem crc32_congr {S T : Space} (a b : Nat) (h : ∀ x, a ≤ x → x < b → S x = T x) : crc32 S a b = crc32 T a b := by
  unfold crc32; rw [crcFold_congr]; intro i hi; exact h _ (by omega) (by omega)

/-! ## Attribute decodes -/

/-- R185. -/
theorem attrDecode_of_error {t k v} {s : State} {e} (h : AttrPresent s) (he : (decodeAttrAs t k v s.mbSpace s.cur.toNat s.endOff.toNat).err = some e) :
   attrDecode t k v s = .next (State.parseError opAttrDec e { s with attr := (decodeAttrAs t k v s.mbSpace s.cur.toNat s.endOff.toNat).record }) := by
  obtain ⟨h1, h2, h3, h4, h5⟩ := h
  unfold attrDecode; simp only
  rw [if_neg (by simp [h1]; omega), if_neg (by omega)]; split
  · next e' he' => rw [he] at he'; cases he'; rfl
  · next he' => rw [he] at he'; cases he'

/-- R173. -/
theorem attrDecode_of_pass {t k v} {s : State} (h : AttrPresent s) (he : (decodeAttrAs t k v s.mbSpace s.cur.toNat s.endOff.toNat).err = none) :
   attrDecode t k v s = .next (State.succeed { s with
          attr := (decodeAttrAs t k v s.mbSpace s.cur.toNat s.endOff.toNat).record
          vb := Memory.setBytes s.vb 0 (decodeAttrAs t k v s.mbSpace s.cur.toNat s.endOff.toNat).text
          cur := BitVec.ofNat 17 (s.cur.toNat + wireSize (attrLength s.mbSpace s.cur.toNat)) }) := by
  obtain ⟨h1, h2, h3, h4, h5⟩ := h
  unfold attrDecode; simp only
  rw [if_neg (by simp [h1]; omega), if_neg (by omega)]; split
  · next e' he' => rw [he] at he'; cases he'
  · rfl

theorem parseError_stopped (e) (s : State) (r : AttrRecord) : Stopped e s (State.parseError opAttrDec e { s with attr := r }) := by
  refine ⟨⟨parseError_records _ _ _, rfl⟩, fun r hr => ?_, ⟨fun _ => rfl, fun _ => rfl⟩, rfl, rfl, rfl, rfl⟩
  cases r <;> first | rfl | (exfalso; simp [attrRegs] at hr; done)

theorem succeed_walked (s : State) (r : AttrRecord) (h : AttrPresent s) (hf : Framed s) (vb) : Walked s (State.succeed { s with attr := r, vb := vb, cur := BitVec.ofNat 17 (s.cur.toNat + wireSize (attrLength s.mbSpace s.cur.toNat)) }) := by
  have hmb : Config.mbSize = 65552 := rfl
  obtain ⟨h1, h2, h3, h4, h5⟩ := h
  refine ⟨⟨rfl, rfl⟩, h1, ?_, fun r hr => ?_, fun _ => rfl, rfl, rfl, rfl, rfl⟩
  · simp only [State.succeed_cur, BitVec.toNat_ofNat]; unfold Framed lengthAtCursor at *; unfold wireSize attrLength; omega
  · cases r <;> first | rfl | (exfalso; simp [attrRegs] at hr; done)

theorem recordHeads_of_attr (t : Half) (s u : State) (h : AttrPresent s) (hu : u.attr = (decodeAttrAs t (kindOf t) (valueDecoder (kindOf t)) s.mbSpace s.cur.toNat s.endOff.toNat).record) : RecordHeads t s u := by
  have hmb : Config.mbSize = 65552 := rfl
  obtain ⟨h1, h2, h3, h4, h5⟩ := h
  obtain ⟨a, b, c, d, e, -⟩ := decodeAttrAs_heads t (kindOf t) s.mbSpace s.cur.toNat s.endOff.toNat
  unfold RecordHeads; rw [hu, a, b, c, d, e]; simp; omega

/-- R174. -/
theorem framed_iff (s : State) : Framed s ↔ s.cur.toNat + wireSize (attrLength s.mbSpace s.cur.toNat) ≤ s.endOff.toNat := by
  unfold Framed lengthAtCursor wireSize attrLength; omega

/-- A decode that passes, by the pure step (R173). -/
theorem attrDecode_walked {t : Half} {s : State} (h : AttrPresent s) (hf : Framed s) (d : Decoded) (hd : decodeAttrAs t (kindOf t) (valueDecoder (kindOf t)) s.mbSpace s.cur.toNat s.endOff.toNat = d) (he : d.err = none) :
  ∃ u, attrDecode t (kindOf t) (valueDecoder (kindOf t)) s = .next u ∧ Walked s u ∧ RecordHeads t s u ∧ u.attr = d.record ∧ (d.text = [] → ∀ a, u.vbSpace a = s.vbSpace a) ∧ u.vb = Memory.setBytes s.vb 0 d.text ∧ u.epoch = s.epoch := by
  subst hd
  refine ⟨_, attrDecode_of_pass h he, succeed_walked _ _ h hf _, recordHeads_of_attr _ _ _ h rfl, rfl, fun ht a => ?_, rfl, rfl⟩
  rw [ht]; rfl

/-- A decode that fails, by the pure step (R185). -/
theorem attrDecode_stopped {t : Half} {s : State} (h : AttrPresent s) (d : Decoded) (e) (hd : decodeAttrAs t (kindOf t) (valueDecoder (kindOf t)) s.mbSpace s.cur.toNat s.endOff.toNat = d) (he : d.err = some e) :
  ∃ u, attrDecode t (kindOf t) (valueDecoder (kindOf t)) s = .next u ∧ Stopped e s u ∧ RecordHeads t s u ∧ u.attr = d.record := by
  subst hd
  exact ⟨_, attrDecode_of_error h he, parseError_stopped _ _ _, recordHeads_of_attr _ _ _ h rfl, rfl⟩

/-! ## Every instruction -/

/-- R260: ParseError codes are below 8. -/
theorem toByte_of_parseError {e : ErrCode} (h : e = .length ∨ e = .leadBits ∨ e = .cookie ∨ e = .type ∨ e = .tid ∨ e = .reserved ∨ e = .fingerprint) : e.toByte.toNat < 8 := by
  rcases h with rfl | rfl | rfl | rfl | rfl | rfl | rfl <;> decide

/-- Every well-formed instruction is one of the system and encode commands, a header decode or an attribute decode. -/
theorem instr_cases (i : Instr) (hw : i.wf = true) (s : State) :
  i = .nop ∨ i = .reset ∨ i = .clrErr ∨ i = .msgEnd ∨ i = .hdrBuild ∨ i = .hdrEnc ∨ i = .attrEnc ∨ i = .crcRun ∨ (∃ op, i = .cmdUndefined op) ∨
  (commandCode i = 0x12#8 ∧ ∃ mt, exec i s = hdrDecode mt s) ∨ (commandCode i = 0x21#8 ∧ ∃ t, exec i s = attrDecode t (kindOf t) (valueDecoder (kindOf t)) s) := by
  by_cases h1 : commandCode i = 0x12#8
  · simp [h1, exec_of_header hw h1 s]
  by_cases h2 : commandCode i = 0x21#8
  · simp [h2, exec_of_attribute hw h2 s]
  cases i <;> simp_all [commandCode]

theorem undefinedCode_ne (op : Byte) (h : undefinedCode op = true) : op ≠ 0x12#8 ∧ op ≠ 0x21#8 := by
  constructor <;> rintro rfl <;> revert h <;> decide

/-- The same without well-formedness. -/
theorem instr_cases_any (i : Instr) (s : State) :
  i = .nop ∨ i = .reset ∨ i = .clrErr ∨ i = .msgEnd ∨ i = .hdrBuild ∨ i = .hdrEnc ∨ i = .attrEnc ∨ i = .crcRun ∨ (∃ op, i = .cmdUndefined op) ∨
  (commandCode i = 0x12#8 ∧ ∃ mt, exec i s = hdrDecode mt s) ∨ (commandCode i = 0x21#8 ∧ ∃ t k, exec i s = attrDecode t k (valueDecoder k) s) := by
  cases i with
  | nop => simp
  | reset => simp
  | clrErr => simp
  | msgEnd => simp
  | hdrBuild => simp
  | hdrEnc => simp
  | attrEnc => simp
  | crcRun => simp
  | cmdUndefined op => simp
  | attrDec => refine .inr (.inr (.inr (.inr (.inr (.inr (.inr (.inr (.inr (.inr ⟨rfl, _, _, rfl⟩)))))))))
  | mappedAddress => refine .inr (.inr (.inr (.inr (.inr (.inr (.inr (.inr (.inr (.inr ⟨rfl, typeMappedAddress, .mapped, rfl⟩)))))))))
  | xorMappedAddress => refine .inr (.inr (.inr (.inr (.inr (.inr (.inr (.inr (.inr (.inr ⟨rfl, typeXorMappedAddress, .xorMapped, rfl⟩)))))))))
  | software => refine .inr (.inr (.inr (.inr (.inr (.inr (.inr (.inr (.inr (.inr ⟨rfl, typeSoftware, .software, rfl⟩)))))))))
  | fingerprint => refine .inr (.inr (.inr (.inr (.inr (.inr (.inr (.inr (.inr (.inr ⟨rfl, typeFingerprint, .fingerprint, rfl⟩)))))))))
  | generic t => refine .inr (.inr (.inr (.inr (.inr (.inr (.inr (.inr (.inr (.inr ⟨rfl, t, .generic, rfl⟩)))))))))
  | _ => exact .inr (.inr (.inr (.inr (.inr (.inr (.inr (.inr (.inr (.inl ⟨rfl, _, rfl⟩)))))))))

/-- R132. -/
theorem execHdrBuild_cases {s t : State} (h : execHdrBuild s = .next t) : t = s.refusal opHdrBuild .operand ∨
   t = State.succeed { s with hTid := tidOfBits (Config.rnd s.draws), draws := s.draws + 1, hLen := 0, mode := .idle } ∧ s.ctrl.getLsbD 1 = true ∨
   t = State.succeed { s with hLen := 0, mode := .idle } := by
  unfold execHdrBuild at h
  split at h
  · exact .inl ((raiseRefusal_eq_next _ _ _ _).mp h).symm
  · split at h
    · next hg => exact .inr (.inl ⟨((done_eq_next _ _).mp h).symm, hg⟩)
    · exact .inr (.inr ((done_eq_next _ _).mp h).symm)

/-- R136. -/
theorem execHdrEnc_cases {s t : State} (h : execHdrEnc s = .next t) : t = s.refusal opHdrEnc .operand ∨
   t = State.succeed { s with hLen := 0, mb := Memory.setBytes s.mb 0 (encodeHeader s.hClass s.hMethod 0 s.hTid), cur := 20, txLen := 0, mode := .enc } := by
  unfold execHdrEnc at h
  split at h
  · exact .inl ((raiseRefusal_eq_next _ _ _ _).mp h).symm
  · exact .inr ((done_eq_next _ _).mp h).symm

/-- R234. -/
theorem execMsgEnd_cases {s t : State} (h : execMsgEnd s = .next t) : (t = s.refusal opMsgEnd .seq ∧ s.mode = .idle) ∨
   (t = State.succeed { s with txLen := s.cur, mode := .idle } ∧ s.mode = .enc) ∨ (t = State.succeed { s with mode := .idle } ∧ s.mode = .dec) := by
  unfold execMsgEnd at h
  split at h
  · next hm => exact .inl ⟨((raiseRefusal_eq_next _ _ _ _).mp h).symm, hm⟩
  · next hm => exact .inr (.inl ⟨((done_eq_next _ _).mp h).symm, hm⟩)
  · next hm => exact .inr (.inr ⟨((done_eq_next _ _).mp h).symm, hm⟩)

/-- R216, R217. -/
theorem execCrcRun_cases {s t : State} (h : execCrcRun s = .next t) : t = s.refusal opCrcRun .operand ∨
   t = State.succeed { s with crcRes := crc32 s.mbSpace s.crcStart.toNat s.crcEnd.toNat } := by
  unfold execCrcRun at h
  split at h
  · exact .inl ((raiseRefusal_eq_next _ _ _ _).mp h).symm
  · exact .inr ((done_eq_next _ _).mp h).symm

/-- How an instruction ends (R264): well, with a ParseError, or with a Refusal; RESET and CLR_ERR aside. -/
theorem exec_error_cases {i : Instr} {s t : State} (h : exec i s = .next t) :
   i = .reset ∨ i = .clrErr ∨ (∃ u : State, t = u.succeed ∧ u.firstCode = s.firstCode ∧ u.firstOp = s.firstOp) ∨
   (∃ u : State, ∃ e, t = u.parseError (commandCode i) e ∧ u.firstCode = s.firstCode ∧ u.firstOp = s.firstOp ∧ e.toByte.toNat < 8) ∨
   (∃ e, t = s.refusal (commandCode i) e) := by
  rcases instr_cases_any i s with rfl | rfl | rfl | rfl | rfl | rfl | rfl | rfl | ⟨op, rfl⟩ | ⟨hc, mt, he⟩ | ⟨hc, ty, k, he⟩
  · exact .inr (.inr (.inl ⟨s, ((done_eq_next _ _).mp h).symm, rfl, rfl⟩))
  · exact .inl rfl
  · exact .inr (.inl rfl)
  · rcases execMsgEnd_cases h with ⟨rfl, -⟩ | ⟨rfl, -⟩ | ⟨rfl, -⟩
    · exact .inr (.inr (.inr (.inr ⟨_, rfl⟩)))
    · exact .inr (.inr (.inl ⟨_, rfl, rfl, rfl⟩))
    · exact .inr (.inr (.inl ⟨_, rfl, rfl, rfl⟩))
  · rcases execHdrBuild_cases h with rfl | ⟨rfl, -⟩ | rfl
    · exact .inr (.inr (.inr (.inr ⟨_, rfl⟩)))
    · exact .inr (.inr (.inl ⟨_, rfl, rfl, rfl⟩))
    · exact .inr (.inr (.inl ⟨_, rfl, rfl, rfl⟩))
  · rcases execHdrEnc_cases h with rfl | rfl
    · exact .inr (.inr (.inr (.inr ⟨_, rfl⟩)))
    · exact .inr (.inr (.inl ⟨_, rfl, rfl, rfl⟩))
  · rcases execAttrEnc_cases h with ⟨e, -, rfl⟩ | ⟨-, -, -, -, rfl⟩
    · exact .inr (.inr (.inr (.inr ⟨_, rfl⟩)))
    · exact .inr (.inr (.inl ⟨_, rfl, rfl, rfl⟩))
  · rcases execCrcRun_cases h with rfl | rfl
    · exact .inr (.inr (.inr (.inr ⟨_, rfl⟩)))
    · exact .inr (.inr (.inl ⟨_, rfl, rfl, rfl⟩))
  · cases h; exact .inr (.inr (.inr (.inr ⟨_, rfl⟩)))
  · rw [he] at h; rw [hc]
    rcases hdrDecode_cases h with ⟨e, he, rfl⟩ | ⟨hd, -, rfl⟩
    · refine .inr (.inr (.inr (.inl ⟨_, _, rfl, rfl, rfl, toByte_of_parseError ?_⟩)))
      rcases decodeHeaderAs_error he with h | h | h | h | h <;> simp [h]
    · exact .inr (.inr (.inl ⟨_, rfl, rfl, rfl⟩))
  · rw [he] at h; rw [hc]
    rcases attrDecode_cases h with ⟨-, rfl⟩ | ⟨-, -, -, ⟨e, he, rfl⟩ | ⟨-, rfl⟩⟩
    · exact .inr (.inr (.inr (.inr ⟨_, rfl⟩)))
    · refine .inr (.inr (.inr (.inl ⟨_, _, rfl, rfl, rfl, toByte_of_parseError ?_⟩)))
      rcases decodeAttrAs_err he with h | h | h <;> simp [h]
    · exact .inr (.inr (.inl ⟨_, rfl, rfl, rfl⟩))

/-! ## Runs -/

/-- A run of `k + 1` steps is a step and a run of `k`. -/
theorem run_of_step {M : Host.Core} {k : Nat} {s t : M.State} (h : M.step s = .next t) : M.run (k + 1) s = M.run k t := by
  have : M.run (k + 1) s =
      match M.step s with
      | .next u => M.run k u
      | .fault r => .fault r
      | .refused r => .refused r := rfl
  rw [this, h]

end Sys2Proof.Machine
end

