-- ==== Sys2Proof/Laws/PerInstr.lean ====
section
/-! SUPPORT. Statements about every instruction as syntax, one lemma per constructor. -/

namespace Sys2Proof.Laws.EncodedSize

/-- 30_encoding.md R109, R116: a command code is one byte, a message type and an attribute type two. -/
def Statement (i : Instr) : Prop := (encode i).length = if slotOf i = .command then 1 else 2

theorem nop : Statement .nop := rfl
theorem reset : Statement .reset := rfl
theorem clrErr : Statement .clrErr := rfl
theorem msgEnd : Statement .msgEnd := rfl
theorem hdrBuild : Statement .hdrBuild := rfl
theorem hdrEnc : Statement .hdrEnc := rfl
theorem hdrDec : Statement .hdrDec := rfl
theorem attrEnc : Statement .attrEnc := rfl
theorem attrDec : Statement .attrDec := rfl
theorem crcRun : Statement .crcRun := rfl
theorem cmdUndefined (op : Byte) : Statement (.cmdUndefined op) := rfl
theorem mtLeadingZero (rest : Half) : Statement (.mtLeadingZero rest) := rfl
theorem classRequest (rest : Half) : Statement (.classRequest rest) := rfl
theorem classIndication (rest : Half) : Statement (.classIndication rest) := rfl
theorem classSuccessResponse (rest : Half) : Statement (.classSuccessResponse rest) := rfl
theorem classErrorResponse (rest : Half) : Statement (.classErrorResponse rest) := rfl
theorem methodBinding (cls : Half) : Statement (.methodBinding cls) := rfl
theorem bindingRequest : Statement .bindingRequest := rfl
theorem bindingIndication : Statement .bindingIndication := rfl
theorem bindingSuccessResponse : Statement .bindingSuccessResponse := rfl
theorem bindingErrorResponse : Statement .bindingErrorResponse := rfl
theorem mtUnrecognised (mt : Half) : Statement (.mtUnrecognised mt) := rfl
theorem mappedAddress : Statement .mappedAddress := rfl
theorem xorMappedAddress : Statement .xorMappedAddress := rfl
theorem software : Statement .software := rfl
theorem fingerprint : Statement .fingerprint := rfl
theorem generic (t : Half) : Statement (.generic t) := rfl

end Sys2Proof.Laws.EncodedSize
end

