-- ==== Sys2Proof/Tests/Slice0.lean ====
section
/-! SUPPORT. The model's own tests: ill-formed terms the check refuses, one word written out from the spec for every
constructor, single steps against the vectors of 95_test_vectors.md (their names in the comments), and for every
statement with hypotheses a witness that meets them. -/

namespace Sys2Proof.Machine.Tests

set_option Elab.async false

/-! ## Small states -/

/-- `TID0` and `TIDB` of 95_test_vectors.md. -/
def tid0 : List Byte := [0x00, 0x01, 0x02, 0x03, 0x04, 0x05, 0x06, 0x07, 0x08, 0x09, 0x0A, 0x0B]
def tidB : List Byte := [0xB7, 0xE7, 0xA7, 0x01, 0xBC, 0x34, 0xD6, 0x86, 0xFA, 0x87, 0xDF, 0xAE]

/-- Twelve bytes as a register file. -/
def asTid (bs : List Byte) : Tid := Vector.ofFn fun i => bs.getD i.val 0

/-- The bytes of a header. -/
def header (t l0 l1 : Byte) (hi : Byte) (tid : List Byte) : List Byte := [hi, t, l0, l1, 0x21, 0x12, 0xA4, 0x42] ++ tid

/-- A message in MB with RXLEN its length. -/
def received (bs : List Byte) : State :=
  { State.reset with mb := Memory.setBytes [] 0 bs, rxLen := BitVec.ofNat 17 bs.length }

/-- A message of which HDR_DEC has been done, the cursor at `cur`. -/
def decoding (bs : List Byte) (cur : Nat) : State :=
  { received bs with
    mode := .dec, cur := BitVec.ofNat 17 cur, endOff := BitVec.ofNat 17 bs.length, hLen := BitVec.ofNat 16 (bs.length - 20) }

/-- A message of which `bs` has been encoded, with an attribute record. -/
def encoding (bs : List Byte) (r : AttrRecord) : State :=
  { State.reset with
    mb := Memory.setBytes [] 0 bs, mode := .enc, cur := BitVec.ofNat 17 bs.length
    hLen := BitVec.ofNat 16 (bs.length - 20), attr := r }

/-- A record with operands. -/
def operands (t len : Half) (family : Byte) (port : Half) (addr : Word) : AttrRecord :=
  { AttrRecord.zero with typ := t, len := len, family := family, port := port, addr := addr }

/-- What is asked of the next state. -/
def after {α : Type} (o : Outcome) (f : State → α) : Option α :=
  match o with
  | .next t => some (f t)
  | .fault _ => none
  | .refused _ => none

/-- The header of V1, and the attributes of V30, V31, V32 and V36. -/
def v1 : List Byte := header 0x01 0 0 0x00 tid0
def v30 : List Byte := header 0x01 0 0x0C 0x01 tidB ++ [0, 1, 0, 8, 0, 1, 0x80, 0x55, 0xC0, 0, 2, 1]
def v31 : List Byte := header 0x01 0 0x0C 0x01 tidB ++ [0, 0x20, 0, 8, 0, 1, 0xA1, 0x47, 0xE1, 0x12, 0xA6, 0x43]
def v32 : List Byte := header 0x01 0 0x18 0x00 tid0 ++
  [0x80, 0x22, 0, 9, 0x6E, 0x6F, 0x64, 0x65, 0x2D, 0x73, 0x74, 0x75, 0x6E, 0, 0, 0] ++
  [0x80, 0x28, 0, 4, 0x5B, 0x79, 0xDF, 0xEF]
def v35 : List Byte := header 0x11 0 0x0C 0x00 tidB ++ [0x80, 0x29, 0, 5, 1, 2, 3, 4, 5, 0, 0, 0]
def v36 : List Byte := header 0x01 0 0x18 0x01 tidB ++
  [0, 1, 0, 0x14, 0, 2, 0x80, 0x55, 0, 1, 2, 3, 4, 5, 6, 7, 8, 9, 0xA, 0xB, 0xC, 0xD, 0xE, 0xF]

/-! ## Ill-formed terms -/

theorem wf_refuses_defined_code : (Instr.cmdUndefined 0x12#8).wf = false := by decide
theorem wf_refuses_leading_bits : (Instr.mtLeadingZero 0x4000#16).wf = false := by decide
theorem wf_refuses_class_bits_request : (Instr.classRequest 0x0010#16).wf = false := by decide
theorem wf_refuses_class_bits_indication : (Instr.classIndication 0x0100#16).wf = false := by decide
theorem wf_refuses_class_bits_success : (Instr.classSuccessResponse 0x0110#16).wf = false := by decide
theorem wf_refuses_class_bits_error : (Instr.classErrorResponse 0x0010#16).wf = false := by decide
theorem wf_refuses_method_bits : (Instr.methodBinding 0x0002#16).wf = false := by decide
theorem wf_refuses_accepted_type : (Instr.mtUnrecognised 0x0111#16).wf = false := by decide
theorem wf_refuses_defined_type : (Instr.generic 0x8028#16).wf = false := by decide

/-! ## Words written out from R88 to R90, R100, R110, R111 -/

theorem decode_commands :
    decode .command [0x00#8] = .ok (.nop, []) ∧ decode .command [0x01#8] = .ok (.reset, []) ∧
    decode .command [0x02#8] = .ok (.clrErr, []) ∧ decode .command [0x03#8] = .ok (.msgEnd, []) ∧
    decode .command [0x10#8] = .ok (.hdrBuild, []) ∧ decode .command [0x11#8] = .ok (.hdrEnc, []) ∧
    decode .command [0x12#8] = .ok (.hdrDec, []) ∧ decode .command [0x20#8] = .ok (.attrEnc, []) ∧
    decode .command [0x21#8] = .ok (.attrDec, []) ∧ decode .command [0x30#8] = .ok (.crcRun, []) := by
  refine ⟨rfl, rfl, rfl, rfl, rfl, rfl, rfl, rfl, rfl, rfl⟩

theorem decode_undefined_codes :
    decode .command [0x04#8] = .ok (.cmdUndefined 0x04#8, []) ∧ decode .command [0x0F#8] = .ok (.cmdUndefined 0x0F#8, []) ∧
    decode .command [0x31#8] = .ok (.cmdUndefined 0x31#8, []) ∧ decode .command [0xFF#8] = .ok (.cmdUndefined 0xFF#8, []) := by
  refine ⟨rfl, rfl, rfl, rfl⟩

theorem decode_message_types :
    decode .msgType [0x00#8, 0x01#8] = .ok (.bindingRequest, []) ∧
    decode .msgType [0x00#8, 0x11#8] = .ok (.bindingIndication, []) ∧
    decode .msgType [0x01#8, 0x01#8] = .ok (.bindingSuccessResponse, []) ∧
    decode .msgType [0x01#8, 0x11#8] = .ok (.bindingErrorResponse, []) ∧
    decode .msgType [0x00#8, 0x02#8] = .ok (.mtUnrecognised 0x0002#16, []) := by
  refine ⟨rfl, rfl, rfl, rfl, rfl⟩

/-- The message type 0x3FFF of V15 by its parts: leading bits zero, class ErrorResponse; 0x0111: method Binding. -/
theorem decode_message_type_parts :
    decode .leadingBits [0x3F#8, 0xFF#8] = .ok (.mtLeadingZero 0x3FFF#16, []) ∧
    decode .msgClass [0x00#8, 0x02#8] = .ok (.classRequest 0x0002#16, []) ∧
    decode .msgClass [0x00#8, 0x11#8] = .ok (.classIndication 0x0001#16, []) ∧
    decode .msgClass [0x01#8, 0x01#8] = .ok (.classSuccessResponse 0x0001#16, []) ∧
    decode .msgClass [0x3F#8, 0xFF#8] = .ok (.classErrorResponse 0x3EEF#16, []) ∧
    decode .method [0x01#8, 0x11#8] = .ok (.methodBinding 0x0110#16, []) := by
  refine ⟨rfl, rfl, rfl, rfl, rfl, rfl⟩

theorem decode_attribute_types :
    decode .attrType [0x00#8, 0x01#8] = .ok (.mappedAddress, []) ∧
    decode .attrType [0x00#8, 0x20#8] = .ok (.xorMappedAddress, []) ∧
    decode .attrType [0x80#8, 0x22#8] = .ok (.software, []) ∧
    decode .attrType [0x80#8, 0x28#8] = .ok (.fingerprint, []) ∧
    decode .attrType [0x80#8, 0x29#8] = .ok (.generic 0x8029#16, []) := by
  refine ⟨rfl, rfl, rfl, rfl, rfl⟩

theorem decode_rejects :
    decode .leadingBits [0x40#8, 0x01#8] = .error .leadingBitsSet ∧
    decode .method [0x00#8, 0x02#8] = .error .methodUnrecognised ∧ decode .attrType [0x80#8] = .error .truncated := by
  refine ⟨rfl, rfl, rfl⟩

/-! ## Single steps -/

/-- V53, third command. -/
theorem test_nop : after (exec .nop { State.reset with err := 0x0C, firstCode := 8, firstOp := 0x20 })
    (fun t => (t.status, t.firstErr)) = some (0x000#11, 0x2008#16) := by decide +kernel

/-- V56: registers 0, MB as it was. -/
theorem test_reset : after (exec .reset { decoding v32 36 with ctrl := 3 })
    (fun t => (t.ctrl, t.rxLen, t.cur, t.status, slice t.mbSpace 0 4)) =
      some (0#2, 0#17, 0#17, 0x000#11, [0x00#8, 0x01#8, 0x00#8, 0x18#8]) := by decide +kernel

/-- V53, fourth command. -/
theorem test_clrErr : after (exec .clrErr { State.reset with firstCode := 8, firstOp := 0x20 })
    (fun t => (t.status, t.firstErr)) = some (0x000#11, 0x0000#16) := by decide +kernel

/-- V54. -/
theorem test_msgEnd_idle : after (exec .msgEnd State.reset) (fun t => (t.status, t.firstErr)) =
    some (0x008#11, 0x0308#16) := by decide +kernel

/-- P1: MSG_END with CUR = 44. -/
theorem test_msgEnd_enc : after (exec .msgEnd (encoding v32 AttrRecord.zero)) (fun t => (t.status, t.txLen)) =
    some (0x000#11, 44#17) := by decide +kernel

/-- V8: CTRL = 0 keeps H_TID. -/
theorem test_hdrBuild : after (exec .hdrBuild { State.reset with hMethod := 1, hTid := asTid tid0, hLen := 8 })
    (fun t => (t.status, t.hTid, t.hLen)) = some (0x000#11, asTid tid0, 0#16) := by decide +kernel

/-- V7: with CTRL = 2 and RND = TIDB, H_TID is TIDB. -/
theorem test_hdrBuild_byteOrder : tidOfBits 0xB7E7A701BC34D686FA87DFAE#96 = asTid tidB := by decide +kernel

/-- V4. -/
theorem test_hdrEnc : after (exec .hdrEnc { State.reset with hClass := 0x0110, hMethod := 1, hTid := asTid tid0 })
    (fun t => (slice t.mbSpace 0 20, t.cur, t.hLen, t.status)) =
      some (header 0x11 0 0 0x01 tid0, 20#17, 0#16, 0x100#11) := by decide +kernel

/-- V5. -/
theorem test_hdrEnc_refused : after (exec .hdrEnc State.reset) (fun t => (t.status, t.firstErr, t.cur)) =
    some (0x009#11, 0x1109#16, 0#17) := by decide +kernel

/-- V19, first case. -/
theorem test_hdrDec :
    after (exec .hdrDec { received (header 0x01 0 0 0x01 tidB) with ctrl := 1, expTid := asTid tidB })
      (fun t => (t.hClass, t.hMethod, t.hTid, t.cur, t.endOff, t.status)) =
        some (0x0100#16, 1#16, asTid tidB, 20#17, 20#17, 0x200#11) := by decide +kernel

/-- V18. -/
theorem test_hdrDec_tid :
    after (exec .hdrDec { received (header 0x01 0 0 0x01 tidB) with ctrl := 1, expTid := asTid tid0 })
      (fun t => (t.status, t.firstErr, t.hClass)) = some (0x007#11, 0x1207#16, 0#16) := by decide +kernel

/-- V22. -/
theorem test_attrEnc_xor : after (exec .attrEnc (encoding v1 (operands 0x0020 0 1 0x8055 0xC0000201)))
    (fun t => (slice t.mbSpace 20 12, slice t.mbSpace 2 2, t.cur, t.hLen, t.attr.xport, t.attr.addrLen)) =
      some ([0, 0x20, 0, 8, 0, 1, 0xA1, 0x47, 0xE1, 0x12, 0xA6, 0x43], [0x00, 0x0C], 32#17, 12#16, 0xA147#16, 4#3) := by
  decide +kernel

/-- V25, second case. -/
theorem test_attrEnc_fingerprint : after (exec .attrEnc (encoding v1 (operands 0x8028 0 0 0 0)))
    (fun t => (slice t.mbSpace 20 8, slice t.mbSpace 2 2, t.attr.fp, t.attr.len)) =
      some ([0x80, 0x28, 0, 4, 0x5B, 0x0F, 0xF6, 0xFC], [0x00, 0x08], 0x5B0FF6FC#32, 4#16) := by decide +kernel

/-- V30. -/
theorem test_attrDec_mapped : after (exec .attrDec (decoding v30 20))
    (fun t => (t.attr.kind, t.attr.port, t.attr.addr, t.attr.addrLen, t.attr.off, t.attr.voff, t.cur, t.status)) =
      some (.mapped, 0x8055#16, 0xC0000201#32, 4#3, 20#17, 24#17, 32#17, 0x200#11) := by decide +kernel

/-- V46. -/
theorem test_crcRun :
    after (exec .crcRun { received [0x31, 0x32, 0x33, 0x34, 0x35, 0x36, 0x37, 0x38, 0x39] with crcEnd := 9 })
      (fun t => (t.crcRes, t.status)) = some (0xCBF43926#32, 0x000#11) := by decide +kernel

/-- V52 (b). -/
theorem test_crcRun_refused : after (exec .crcRun { State.reset with crcEnd := 65553 })
    (fun t => (t.status, t.firstErr)) = some (0x009#11, 0x3009#16) := by decide +kernel

/-- V53, second command: the first failure stands. -/
theorem test_cmdUndefined : after (exec (.cmdUndefined 0x13) { State.reset with firstCode := 8, firstOp := 0x20 })
    (fun t => (t.status, t.firstErr)) = some (0x00C#11, 0x2008#16) := by decide +kernel

/-- V9: the class row of its message type. -/
theorem test_classRequest : after (exec (.classRequest 0x0001) (received v1)) (fun t => (t.hClass, t.status)) =
    some (0x0000#16, 0x200#11) := by decide +kernel

/-- V19: the method row of its message type. -/
theorem test_methodBinding : after (exec (.methodBinding 0x0100) (received (header 0x01 0 0 0x01 tidB)))
    (fun t => (t.hClass, t.hMethod)) = some (0x0100#16, 1#16) := by decide +kernel

/-- V35: Binding Indication. -/
theorem test_bindingIndication : after (exec .bindingIndication (received v35)) (fun t => (t.hClass, t.endOff)) =
    some (0x0010#16, 32#17) := by decide +kernel

/-- V14. -/
theorem test_mtUnrecognised : after (exec (.mtUnrecognised 0x0002) (received (header 0x02 0 0 0x00 tid0)))
    (fun t => (t.status, t.firstErr)) = some (0x003#11, 0x1203#16) := by decide +kernel

/-- V37, second case. -/
theorem test_mappedAddress_reserved : after (exec .mappedAddress (decoding (v36.set 24 0xFF) 20))
    (fun t => (t.status, t.firstErr, t.cur, t.attr.family, t.attr.kind)) =
      some (0x005#11, 0x2105#16, 20#17, 0#8, .mapped) := by decide +kernel

/-- V31. -/
theorem test_xorMappedAddress : after (exec .xorMappedAddress (decoding v31 20))
    (fun t => (t.attr.xport, t.attr.port, t.attr.xaddr, t.attr.addr)) =
      some (0xA147#16, 0x8055#16, 0xE112A643#32, 0xC0000201#32) := by decide +kernel

/-- V32, first ATTR_DEC. -/
theorem test_software : after (exec .software (decoding v32 20))
    (fun t => (slice t.vbSpace 0 9, t.attr.len, t.cur, t.status)) =
      some ([0x6E, 0x6F, 0x64, 0x65, 0x2D, 0x73, 0x74, 0x75, 0x6E], 9#16, 36#17, 0x600#11) := by decide +kernel

/-- V33, and V34's first case. -/
theorem test_fingerprint : after (exec .fingerprint (decoding v32 36)) (fun t => (t.attr.fp, t.cur, t.status)) =
    some (0x5B79DFEF#32, 44#17, 0x200#11) := by decide +kernel
theorem test_fingerprint_flip : after (exec .fingerprint (decoding (v32.set 25 0x6E) 36))
    (fun t => (t.attr.fp, t.cur, t.status, t.firstErr)) = some (0x5B79DFEF#32, 36#17, 0x006#11, 0x2106#16) := by
  decide +kernel

/-- V35. -/
theorem test_generic : after (exec (.generic 0x8029) (decoding v35 20)) (fun t => (t.attr.len, t.attr.kind, t.cur)) =
    some (5#16, .generic, 32#17) := by decide +kernel

/-- V60, V61, V62: the port. -/
theorem test_port_readOnly : after (step { State.reset with port := [.wr 0x06 100] }) (fun t => t.cur) = some 0#17 := by
  decide +kernel
theorem test_port_truncates : after (step { State.reset with port := [.wr 0x44 0x18055] }) (fun t => t.attr.port) =
    some 0x8055#16 := by decide +kernel
theorem test_port_beyondMb : after (step { State.reset with port := [.rb 65552] }) (fun t => t.reply) =
    some (.byte 0) := by decide +kernel

/-- V57: a write of 0x1230 to CMD is CRC_RUN. -/
theorem test_command_lowByte : commandOf 0x1230 = .crcRun := by decide

/-- Words of all three formats, placed and run. -/
theorem test_withFetchWord :
    after (step (State.reset.withFetchWord 8 0x13)) (fun t => t.status) = some 0x00C#11 ∧
    after (step (State.reset.withFetchWord 16 0x0101)) (fun t => (t.hClass, t.status)) = some (0x0100#16, 0x200#11) ∧
    after (step (State.reset.withFetchWord 16 0x8022)) (fun t => (t.attr.kind, t.cur)) = some (.software, 24#17) := by
  decide +kernel

/-! ## Witnesses: for every statement with hypotheses, values that meet them -/

/-- An instruction answers a next state in the witness states. -/
theorem next_of_after {o : Outcome} (h : (after o fun t => t).isSome = true) : ∃ t, o = .next t := by
  cases o with
  | next t => exact ⟨t, rfl⟩
  | fault _ => cases h
  | refused _ => cases h

/-- The same, with what the next state holds. -/
theorem next_with {o : Outcome} {p : State → Bool} (h : after o p = some true) : ∃ t, o = .next t ∧ p t = true := by
  cases o with
  | next t => exact ⟨t, rfl, Option.some.inj h⟩
  | fault _ => cases h
  | refused _ => cases h

/-- The state after reset meets the invariant, with any events pending. -/
theorem reset_inv (program : List Event) : State.Inv (startWith program) :=
  ⟨rfl, rfl, Nat.zero_le _, Nat.zero_le _, fun _ => rfl, .inl rfl, .inl ⟨rfl, rfl⟩, rfl, fun h => absurd rfl h,
    fun h => (nomatch h), fun h => (nomatch h)⟩

/-- A decode in progress meets it. -/
theorem decoding_inv : State.Inv (decoding v32 20) :=
  ⟨by decide +kernel, rfl, by decide, by decide, fun _ => rfl, .inl rfl, .inl ⟨rfl, rfl⟩, by decide +kernel,
    fun _ => by decide +kernel, fun h => (nomatch h), fun _ => by decide +kernel⟩

/-- An encode in progress meets it. -/
theorem encoding_inv : State.Inv (encoding v1 AttrRecord.zero) :=
  ⟨by decide +kernel, rfl, by decide, by decide, fun _ => rfl, .inl rfl, .inl ⟨rfl, rfl⟩, by decide +kernel,
    fun _ => by decide +kernel, fun _ => by decide +kernel, fun h => (nomatch h)⟩

theorem witness_DecodeReadsBackEncode : (Instr.mtUnrecognised 0xFFFF).wf = true ∧ (Instr.cmdUndefined 0x04).wf = true ∧
    (Instr.methodBinding 0x0110).wf = true := by decide

theorem witness_EncodeReadsBackDecode : decode .attrType [0xFF#8, 0xFF#8, 0x07#8] = .ok (.generic 0xFFFF#16, [0x07#8]) := by
  rfl

/-- The last class with the one method, and with every method bit set; a header decode that passes (V32). -/
theorem witness_MasksSeparateClassAndMethod :
    (0x0110#16 ∈ Config.classSet ∧ (0x0001#16 : Half) &&& 0x0110#16 = 0#16 ∧ (0xFEEF#16 : Half) &&& 0x0110#16 = 0#16) ∧
    read16 (overlay (encodeHeader 0x0000 0x0001 0 (asTid tid0)) (fun _ => 0)) 0 = 0x0001#16 ∧
    (decodeHeaderAs 0x0001 (received v32).mbSpace 44 false (asTid tid0)).isOk = true :=
  ⟨by decide, by decide +kernel, by decide +kernel⟩

theorem witness_EveryReadingOfAMessageTypeAgrees :
    ReadsAs 0x0111 .bindingErrorResponse ∧ ReadsAs 0x0111 (.classErrorResponse 0x0001) ∧
    ReadsAs 0x0111 (.mtLeadingZero 0x0111) ∧ ReadsAs 0x0111 (.methodBinding 0x0110) :=
  ⟨.inl rfl, .inr (.inl rfl), .inr (.inr (.inl rfl)), .inr (.inr (.inr rfl))⟩

theorem witness_StepRunsTheCommandWritten : (startWith [.wr 0x00 0xFFFFFF12, .rd 0x02]).port =
      .wr 0x00#8 0xFFFFFF12 :: [.rd 0x02] ∧
    decode .command [(0xFFFFFF12 : Word).setWidth 8] = .ok (.hdrDec, []) ∧ State.reset.port = [] := ⟨rfl, rfl, rfl⟩

theorem witness_DecodeCommandsRunTheReceivedWord :
    (∃ i rest, decode .msgType ((decoding v32 20).mbSpace 0 :: (decoding v32 20).mbSpace 1 :: []) = .ok (i, rest)) ∧
    (∃ i rest, decode .attrType ((decoding v32 20).mbSpace (decoding v32 20).cur.toNat ::
      (decoding v32 20).mbSpace ((decoding v32 20).cur.toNat + 1) :: []) = .ok (i, rest)) := ⟨⟨_, _, rfl⟩, ⟨_, _, rfl⟩⟩

theorem witness_EveryStepKeepsTheInvariant :
    State.Inv (startWith [.wr 0x00 0x12]) ∧ ∃ t, step (startWith [.wr 0x00 0x12]) = .next t :=
  ⟨reset_inv _, next_of_after (by decide +kernel)⟩

theorem witness_NoStepStopsUnderTheInvariant : State.Inv (decoding v32 20) ∧ State.Inv (encoding v1 AttrRecord.zero) :=
  ⟨decoding_inv, encoding_inv⟩

/-- ENC mode with the length field equal to H_LEN, and an event that appends; and a write to MB[4]. -/
theorem witness_LengthFieldFollowsHLen :
    let s := { encoding v1 (operands 0x8022 0 0 0 0) with port := [.wr 0x00 0x20] }
    (∀ off b, Event.wr 0x00 0x20 = .wb off b → off.toNat ≠ 2 ∧ off.toNat ≠ 3) ∧
    read16 s.mbSpace 2 = s.hLen ∧ ∃ t, step s = .next t ∧ decide (t.mode = .enc) = true :=
  ⟨fun _ _ h => (nomatch h), by decide +kernel, next_with (p := fun t => decide (t.mode = .enc)) (by decide +kernel)⟩

/-- A failure that stands and a second one; a first failure; a success; CLR_ERR and RESET. -/
theorem witness_FirstFailureStands :
    (∃ t, exec (decodeCmd 0x03) { State.reset with firstCode := 12, firstOp := 0x13 } = .next t ∧
      decide (t.err ≠ 0#8) = true) ∧
    (∃ t, exec (decodeCmd 0xFF) State.reset = .next t ∧ decide (t.err ≠ 0#8) = true) ∧
    (∃ t, exec (decodeCmd 0x00) State.reset = .next t ∧ decide (t.err = 0#8) = true) ∧
    (∃ t, exec (decodeCmd 0x01) State.reset = .next t) ∧ (∃ t, exec (decodeCmd 0x02) State.reset = .next t) :=
  ⟨next_with (p := fun t => decide (t.err ≠ 0#8)) (by decide +kernel),
    next_with (p := fun t => decide (t.err ≠ 0#8)) (by decide +kernel),
    next_with (p := fun t => decide (t.err = 0#8)) (by decide +kernel), next_of_after (by decide +kernel),
    next_of_after (by decide +kernel)⟩

/-- Codes 8 and 12. -/
theorem witness_RefusalsChangeNothing :
    (∃ t, exec (decodeCmd 0x03) State.reset = .next t ∧ decide (t.err.toNat = 8) = true) ∧
    (∃ t, exec (decodeCmd 0xFF) State.reset = .next t ∧ decide (t.err.toNat = 12) = true) :=
  ⟨next_with (p := fun t => decide (t.err.toNat = 8)) (by decide +kernel),
    next_with (p := fun t => decide (t.err.toNat = 12)) (by decide +kernel)⟩

/-- Each command with a success and a failure. -/
theorem witness_ModeTransitions :
    (∃ t, exec (decodeCmd 0x01) (decoding v32 20) = .next t) ∧
    (∃ t, exec (decodeCmd 0x10) { decoding v32 20 with hMethod := 1 } = .next t ∧ decide (t.err = 0#8) = true) ∧
    (∃ t, exec (decodeCmd 0x10) (decoding v32 20) = .next t ∧ decide (t.err ≠ 0#8) = true) ∧
    (∃ t, exec (decodeCmd 0x11) { State.reset with hMethod := 1 } = .next t ∧ decide (t.err = 0#8) = true) ∧
    (∃ t, exec (decodeCmd 0x11) State.reset = .next t ∧ decide (t.err ≠ 0#8) = true) ∧
    (∃ t, exec (decodeCmd 0x12) (received v1) = .next t ∧ decide (t.err = 0#8) = true) ∧
    (∃ t, exec (decodeCmd 0x12) { received v1 with mode := .enc, rxLen := 19 } = .next t ∧ decide (t.err ≠ 0#8) = true) ∧
    (∃ t, exec (decodeCmd 0x20) (encoding v1 (operands 0x8022 0 0 0 0)) = .next t ∧ decide (t.err = 0#8) = true) ∧
    (∃ t, exec (decodeCmd 0x21) (decoding v32 20) = .next t ∧ decide (t.err = 0#8) = true) ∧
    (∃ t, exec (decodeCmd 0x21) (decoding (v32.set 43 0) 36) = .next t ∧ decide (t.err ≠ 0#8 ∧ t.err.toNat < 8) = true) ∧
    (∃ t, exec (decodeCmd 0x21) (decoding v1 20) = .next t ∧ decide (8 ≤ t.err.toNat) = true) ∧
    (∃ t, exec (decodeCmd 0x03) (decoding v1 20) = .next t ∧ decide (t.err = 0#8) = true) ∧
    (∃ t, exec (decodeCmd 0x03) State.reset = .next t ∧ decide (t.err ≠ 0#8) = true) ∧
    (∃ t, exec (decodeCmd 0x30) (decoding v1 20) = .next t) ∧
    (∃ t, step { State.reset with port := [.hwReset] } = .next t) := by
  refine ⟨next_of_after ?_, next_with (p := fun t => decide (t.err = 0#8)) ?_,
    next_with (p := fun t => decide (t.err ≠ 0#8)) ?_, next_with (p := fun t => decide (t.err = 0#8)) ?_,
    next_with (p := fun t => decide (t.err ≠ 0#8)) ?_, next_with (p := fun t => decide (t.err = 0#8)) ?_,
    next_with (p := fun t => decide (t.err ≠ 0#8)) ?_, next_with (p := fun t => decide (t.err = 0#8)) ?_,
    next_with (p := fun t => decide (t.err = 0#8)) ?_,
    next_with (p := fun t => decide (t.err ≠ 0#8 ∧ t.err.toNat < 8)) ?_,
    next_with (p := fun t => decide (8 ≤ t.err.toNat)) ?_, next_with (p := fun t => decide (t.err = 0#8)) ?_,
    next_with (p := fun t => decide (t.err ≠ 0#8)) ?_, next_of_after ?_, next_of_after ?_⟩ <;> decide +kernel

/-- Each command that writes a register, with a change of that register; a failure and CLR_ERR change FIRSTERR. -/
theorem witness_OnlyTheirCommandsWriteRegisters :
    (∃ t, exec .msgEnd (encoding v1 AttrRecord.zero) = .next t ∧ decide (t.txLen ≠ 0#17) = true) ∧
    (∃ t, exec .hdrDec (received v32) = .next t ∧
      decide (t.cur ≠ 0#17 ∧ t.endOff ≠ 0#17 ∧ t.hMethod ≠ 0#16 ∧ t.hLen ≠ 0#16 ∧ t.hTid ≠ State.reset.hTid) = true) ∧
    (∃ t, exec .attrDec (decoding v30 20) = .next t ∧ decide (t.attr.typ ≠ 0#16 ∧ t.attr.addr ≠ 0#32) = true) ∧
    (∃ t, exec .crcRun { received v1 with crcEnd := 1 } = .next t ∧ decide (t.crcRes ≠ 0#32) = true) ∧
    (∃ t, exec .msgEnd State.reset = .next t ∧ decide (t.firstErr ≠ State.reset.firstErr) = true) ∧
    (∃ t, exec .clrErr { State.reset with firstCode := 8, firstOp := 3 } = .next t ∧ decide (t.firstErr = 0#16) = true) := by
  refine ⟨next_with (p := fun t => decide (t.txLen ≠ 0#17)) ?_,
    next_with (p := fun t => decide (t.cur ≠ 0#17 ∧ t.endOff ≠ 0#17 ∧ t.hMethod ≠ 0#16 ∧ t.hLen ≠ 0#16 ∧
      t.hTid ≠ State.reset.hTid)) ?_,
    next_with (p := fun t => decide (t.attr.typ ≠ 0#16 ∧ t.attr.addr ≠ 0#32)) ?_,
    next_with (p := fun t => decide (t.crcRes ≠ 0#32)) ?_,
    next_with (p := fun t => decide (t.firstErr ≠ State.reset.firstErr)) ?_,
    next_with (p := fun t => decide (t.firstErr = 0#16)) ?_⟩ <;> decide +kernel

/-- ATTR_ENC changes MB[3]; ATTR_DEC of a Software changes VB[0]. -/
theorem witness_OnlyTheirCommandsWriteBuffers :
    (∃ t, exec .attrEnc (encoding v1 (operands 0x8022 0 0 0 0)) = .next t ∧
      decide (t.mbSpace 3 ≠ (encoding v1 (operands 0x8022 0 0 0 0)).mbSpace 3) = true) ∧
    (∃ t, exec .attrDec { decoding v32 20 with vb := [(0, 0)] } = .next t ∧
      decide (t.vbSpace 0 ≠ ({ decoding v32 20 with vb := [(0, 0)] } : State).vbSpace 0) = true) :=
  ⟨next_with (p := fun t => decide (t.mbSpace 3 ≠ (encoding v1 (operands 0x8022 0 0 0 0)).mbSpace 3)) (by decide +kernel),
    next_with (p := fun t => decide (t.vbSpace 0 ≠ ({ decoding v32 20 with vb := [(0, 0)] } : State).vbSpace 0))
      (by decide +kernel)⟩

theorem witness_MsgEndSealsTheMessage :
    State.reset.mode = .idle ∧ (encoding v1 AttrRecord.zero).mode = .enc ∧ (decoding v1 20).mode = .dec := ⟨rfl, rfl, rfl⟩

/-- The first and the last code of each undefined range, and V57's form of a longer word. -/
theorem witness_UndefinedCodesAreRefused : ∀ v ∈ [0x04, 0x0F, 0x13, 0x1F, 0x22, 0x2F, 0x31, 0xFF, 0x1204],
    (BitVec.ofNat 32 v).setWidth 8 ∉
      [0x00#8, 0x01#8, 0x02#8, 0x03#8, 0x10#8, 0x11#8, 0x12#8, 0x20#8, 0x21#8, 0x30#8] := by decide

/-- The four legal classes, V6's illegal operands, and TIDGEN off and on. -/
theorem witness_HdrBuildPreparesAHeader :
    LegalHeader 0x0000 0x0001 ∧ LegalHeader 0x0010 0x0001 ∧ LegalHeader 0x0100 0x0001 ∧ LegalHeader 0x0110 0x0001 ∧
    ¬ LegalHeader 0x0001 0x0001 ∧ ¬ LegalHeader 0x0000 0x0011 ∧
    ({ State.reset with ctrl := 1 } : State).ctrl.getLsbD 1 = false ∧
    ({ State.reset with ctrl := 2 } : State).ctrl.getLsbD 1 = true := by decide

theorem witness_HdrEncWritesTheHeader :
    LegalHeader ({ State.reset with hClass := 0x0110, hMethod := 1 } : State).hClass
      ({ State.reset with hClass := 0x0110, hMethod := 1 } : State).hMethod ∧
    ¬ LegalHeader State.reset.hClass State.reset.hMethod := by decide

/-- V32: a header of a 44-byte message that passes; V19: with TIDCHK; V10, V12, V13, V14, V17, V18: one message for each
check that can fail first. -/
theorem witness_HdrDecCommitsOrFailsByItsFirstFailingCheck :
    (CountOk (received v32) ∧ AcceptedType (read16 (received v32).mbSpace 0) ∧ CookieOk (received v32) ∧
      LengthOk (received v32) ∧ TidOk (received v32)) ∧
    TidOk { received (header 0x01 0 0 0x01 tidB) with ctrl := 1, expTid := asTid tidB } ∧
    (¬ CountOk { received v1 with rxLen := 19 } ∧ ¬ CountOk { received v1 with rxLen := 65553 }) ∧
    (CountOk (received (header 0x01 0 0 0x40 tid0)) ∧ 0x40 ≤ ((received (header 0x01 0 0 0x40 tid0)).mbSpace 0).toNat) ∧
    (CountOk (received (v1.set 7 0x43)) ∧ ((received (v1.set 7 0x43)).mbSpace 0).toNat < 0x40 ∧
      ¬ CookieOk (received (v1.set 7 0x43))) ∧
    (CountOk (received (v1.set 0 0x3F)) ∧ ((received (v1.set 0 0x3F)).mbSpace 0).toNat < 0x40 ∧
      CookieOk (received (v1.set 0 0x3F)) ∧ read16 (received (v1.set 0 0x3F)).mbSpace 0 &&& 0xFEEF#16 ≠ 0x0001#16) ∧
    (CountOk (received (v1.set 3 4)) ∧ AcceptedType (read16 (received (v1.set 3 4)).mbSpace 0) ∧
      CookieOk (received (v1.set 3 4)) ∧ ¬ LengthOk (received (v1.set 3 4))) ∧
    (LengthOk (received v1) ∧ ¬ TidOk { received v1 with ctrl := 1 }) ∧
    (∃ t, exec .hdrDec { received v1 with rxLen := 19 } = .next t ∧ decide (t.err ≠ 0#8) = true) := by
  refine ⟨?_, ?_, ?_, ?_, ?_, ?_, ?_, ?_, next_with (p := fun t => decide (t.err ≠ 0#8)) ?_⟩ <;> decide +kernel

theorem witness_AcceptedMessageTypesCommit :
    AcceptedType 0x0111 ∧ ReadsAs 0x0111 (.methodBinding 0x0110) ∧ CountOk (received v1) ∧ CookieOk (received v1) ∧
    LengthOk (received v1) ∧ TidOk (received v1) :=
  ⟨by decide, .inr (.inr (.inr rfl)), by decide +kernel, by decide +kernel, by decide +kernel, by decide +kernel⟩

theorem witness_OtherMessageTypesFail :
    (¬ AcceptedType 0x4001 ∧ ReadsAs 0x4001 (.mtUnrecognised 0x4001) ∧ (0x4001#16 : Half) &&& 0xC000#16 ≠ 0#16) ∧
    (¬ AcceptedType 0x3FFF ∧ ReadsAs 0x3FFF (.mtLeadingZero 0x3FFF) ∧ (0x3FFF#16 : Half) &&& 0xC000#16 = 0#16) ∧
    CountOk (received v1) ∧ CookieOk (received v1) ∧ ¬ CookieOk (received (v1.set 7 0x43)) :=
  ⟨⟨by decide, .inl rfl, by decide⟩, ⟨by decide, .inr (.inr (.inl rfl)), by decide⟩, by decide +kernel, by decide +kernel,
    by decide +kernel⟩

/-- The longest section MB holds. -/
theorem witness_HeaderRoundTrip :
    LegalHeader 0x0110 0x0001 ∧ (65532#16 : Half).toNat % 4 = 0 ∧ 20 + (65532#16 : Half).toNat ≤ Config.mbSize := by decide

/-- V28, V26, V27, V29 (a). -/
theorem witness_AttrEncRefusesInOrder :
    State.reset.mode ≠ .enc ∧ (encoding v1 AttrRecord.zero).mode = .enc ∧ kindOf 0x8029 = .generic ∧
    (operands 0x0001 0 2 0x8055 0).family ≠ 1#8 ∧
    kindOf 0x8022 ≠ .generic ∧
    Config.mbSize < (encoding v1 (operands 0x8022 65529 0 0 0)).cur.toNat + 4 +
      padded (valueLength (kindOf 0x8022) (operands 0x8022 65529 0 0 0)) := by decide +kernel

theorem witness_AttrEncMappedAddress :
    let s := encoding v1 (operands 0x0001 0 1 0x8055 0xC0000201)
    s.mode = .enc ∧ s.attr.typ = 0x0001#16 ∧ s.attr.family = 1#8 ∧ 20 ≤ s.cur.toNat ∧
    s.cur.toNat + 12 ≤ Config.mbSize := by decide +kernel

theorem witness_AttrEncXorMappedAddress :
    let s := encoding v1 (operands 0x0020 0 1 0x8055 0xC0000201)
    s.mode = .enc ∧ s.attr.typ = 0x0020#16 ∧ s.attr.family = 1#8 ∧ 20 ≤ s.cur.toNat ∧
    s.cur.toNat + 12 ≤ Config.mbSize := by decide +kernel

/-- V29 (b): the longest text; V24: none. -/
theorem witness_AttrEncSoftware : ∀ l ∈ [0, 9, 65528],
    let s := encoding v1 (operands 0x8022 (BitVec.ofNat 16 l) 0 0 0)
    s.mode = .enc ∧ s.attr.typ = 0x8022#16 ∧ 20 ≤ s.cur.toNat ∧
    s.cur.toNat + 4 + padded s.attr.len.toNat ≤ Config.mbSize := by decide +kernel

theorem witness_AttrEncFingerprint :
    let s := { encoding v1 (operands 0x8028 0 0 0 0) with cur := 65544 }
    s.mode = .enc ∧ s.attr.typ = 0x8028#16 ∧ 20 ≤ s.cur.toNat ∧ s.cur.toNat + 8 ≤ Config.mbSize := by decide +kernel

/-- V42 in DEC mode, and IDLE mode. -/
theorem witness_AttrDecNeedsAnAttribute :
    Instr.software.wf = true ∧ commandCode .software = 0x21#8 ∧ State.reset.mode ≠ .dec ∧
    (decoding v32 44).endOff.toNat ≤ (decoding v32 44).cur.toNat := by decide +kernel

/-- V41 (a): an attribute length of 16 in a 12-byte section. -/
theorem witness_AttributeBeyondTheSectionFails :
    AttrPresent (decoding (v31.set 23 0x10) 20) ∧ ¬ Framed (decoding (v31.set 23 0x10) 20) ∧
    read16 (decoding (v31.set 23 0x10) 20).mbSpace (decoding (v31.set 23 0x10) 20).cur.toNat = 0x0020#16 := by decide +kernel

theorem witness_AttrDecMappedAddress :
    let s := decoding v30 20
    AttrPresent s ∧ Framed s ∧ read16 s.mbSpace s.cur.toNat = 0x0001#16 ∧
    8 ≤ lengthAtCursor s ∧ s.mbSpace (s.cur.toNat + 4) = 0x00#8 ∧ s.mbSpace (s.cur.toNat + 5) = 0x01#8 := by
  decide +kernel

theorem witness_AttrDecXorMappedAddress :
    let s := decoding v31 20
    AttrPresent s ∧ Framed s ∧ read16 s.mbSpace s.cur.toNat = 0x0020#16 ∧
    8 ≤ lengthAtCursor s ∧ s.mbSpace (s.cur.toNat + 4) = 0x00#8 ∧ s.mbSpace (s.cur.toNat + 5) = 0x01#8 := by
  decide +kernel

/-- V36, and its record with the type code of a XorMappedAddress. -/
theorem witness_AttrDecOtherFamilyIsEmpty : ∀ s ∈ [decoding v36 20, decoding (v36.set 21 0x20) 20],
    AttrPresent s ∧ Framed s ∧ (read16 s.mbSpace s.cur.toNat = 0x0001#16 ∨ read16 s.mbSpace s.cur.toNat = 0x0020#16) ∧
    4 ≤ lengthAtCursor s ∧ s.mbSpace (s.cur.toNat + 4) = 0x00#8 ∧ s.mbSpace (s.cur.toNat + 5) ≠ 0x01#8 := by
  decide +kernel

/-- V39 (a) with length 3, V37, V39 (b) with lengths 7 and 4, the last of the Xor variant. -/
theorem witness_MalformedAddressFails :
    (AttrPresent (decoding (v30.set 23 3) 20) ∧ Framed (decoding (v30.set 23 3) 20) ∧
      read16 (decoding (v30.set 23 3) 20).mbSpace (decoding (v30.set 23 3) 20).cur.toNat = 0x0001#16 ∧ lengthAtCursor (decoding (v30.set 23 3) 20) < 4) ∧
    (AttrPresent (decoding (v31.set 24 1) 20) ∧ Framed (decoding (v31.set 24 1) 20) ∧
      read16 (decoding (v31.set 24 1) 20).mbSpace (decoding (v31.set 24 1) 20).cur.toNat = 0x0020#16 ∧ 4 ≤ lengthAtCursor (decoding (v31.set 24 1) 20) ∧
      (decoding (v31.set 24 1) 20).mbSpace 24 ≠ 0x00#8) ∧
    (AttrPresent (decoding (v30.set 23 7) 20) ∧ Framed (decoding (v30.set 23 7) 20) ∧
      read16 (decoding (v30.set 23 7) 20).mbSpace (decoding (v30.set 23 7) 20).cur.toNat = 0x0001#16 ∧ 4 ≤ lengthAtCursor (decoding (v30.set 23 7) 20) ∧
      lengthAtCursor (decoding (v30.set 23 7) 20) < 8 ∧ (decoding (v30.set 23 7) 20).mbSpace 24 = 0x00#8 ∧
      (decoding (v30.set 23 7) 20).mbSpace 25 = 0x01#8) ∧
    (AttrPresent (decoding (v31.set 23 4) 20) ∧ Framed (decoding (v31.set 23 4) 20) ∧
      read16 (decoding (v31.set 23 4) 20).mbSpace (decoding (v31.set 23 4) 20).cur.toNat = 0x0020#16 ∧
      lengthAtCursor (decoding (v31.set 23 4) 20) = 4 ∧ (decoding (v31.set 23 4) 20).mbSpace 24 = 0x00#8 ∧
      (decoding (v31.set 23 4) 20).mbSpace 25 = 0x01#8) := by decide +kernel

theorem witness_AttrDecSoftware :
    AttrPresent (decoding v32 20) ∧ Framed (decoding v32 20) ∧ read16 (decoding v32 20).mbSpace (decoding v32 20).cur.toNat = 0x8022#16 := by decide +kernel

/-- V33, V34 and V40. -/
theorem witness_AttrDecFingerprint :
    (AttrPresent (decoding v32 36) ∧ Framed (decoding v32 36) ∧ read16 (decoding v32 36).mbSpace (decoding v32 36).cur.toNat = 0x8028#16) ∧
    (lengthAtCursor (decoding v32 36) = 4 ∧ crc32 (decoding v32 36).mbSpace 0 36 ^^^ 0x5354554E#32 = 0x5B79DFEF#32) ∧
    (lengthAtCursor (decoding (v32.set 25 0x6E) 36) = 4 ∧
      crc32 (decoding (v32.set 25 0x6E) 36).mbSpace 0 36 ^^^ 0x5354554E#32 ≠ 0x5B79DFEF#32) ∧
    (Framed (decoding (v32.set 39 0) 36) ∧ lengthAtCursor (decoding (v32.set 39 0) 36) ≠ 4) := by decide +kernel

theorem witness_AttrDecGenericIsSkipped :
    AttrPresent (decoding v35 20) ∧ Framed (decoding v35 20) ∧ kindOf 0x8029 = .generic ∧
    read16 (decoding v35 20).mbSpace (decoding v35 20).cur.toNat = 0x8029#16 := by decide +kernel

/-- Each of the five types with a value that passes: V30, V31, V32, V33, V35. -/
theorem witness_AttributeTypeInstructionsDecode :
    ∀ p ∈ [(0x0001#16, decoding v30 20), (0x0020#16, decoding v31 20), (0x8022#16, decoding v32 20),
        (0x8028#16, decoding v32 36), (0x8029#16, decoding v35 20)],
      AttrPresent p.2 ∧ Framed p.2 ∧ ValuePasses p.1 p.2 ∧ read16 p.2.mbSpace p.2.cur.toNat = p.1 := by decide +kernel

theorem witness_TheWalkAdvancesAndEnds :
    State.Inv (decoding v32 20) ∧ ∃ t, exec .attrDec (decoding v32 20) = .next t ∧ decide (t.err = 0#8) = true :=
  ⟨decoding_inv, next_with (p := fun t => decide (t.err = 0#8)) (by decide +kernel)⟩

theorem witness_XorMappedAddressFidelity :
    let s := encoding v1 (operands 0x0020 0 1 0x8055 0xC0000201)
    (s.mode = .enc ∧ s.attr.typ = 0x0020#16 ∧ s.attr.family = 1#8 ∧ 20 ≤ s.cur.toNat ∧
      s.cur.toNat + 12 ≤ Config.mbSize) ∧ ∃ t, exec .attrEnc s = .next t :=
  ⟨by decide +kernel, next_of_after (by decide +kernel)⟩

theorem witness_CrcReferenceVectors : ∀ k, k < 9 → (fun a => BitVec.ofNat 8 (0x31 + (a - 5)) : Space) (5 + k) =
    BitVec.ofNat 8 (0x31 + k) := fun k _ => by simp

/-- V52 (c), (b), (a), and an empty range at the end of MB. -/
theorem witness_CrcRunComputesOrRefuses :
    let s : State := { State.reset with crcStart := 65552, crcEnd := 65552 }
    let t : State := { State.reset with crcEnd := 65553 }
    let u : State := { State.reset with crcStart := 3, crcEnd := 2 }
    (s.crcStart.toNat ≤ s.crcEnd.toNat ∧ s.crcEnd.toNat ≤ Config.mbSize) ∧ Config.mbSize < t.crcEnd.toNat ∧
    u.crcEnd.toNat < u.crcStart.toNat := by decide

theorem witness_CrcDetectsEverySingleBit :
    let S : Space := fun _ => 0
    let T : Space := fun a => if a = 8 then 0x80 else 0
    (0 ≤ 8 ∧ 8 < 9 ∧ 7 < 8) ∧ (∀ a, a ≠ 8 → T a = S a) ∧ T 8 = S 8 ^^^ BitVec.ofNat 8 (2 ^ 7) :=
  ⟨by decide, fun a h => by simp [h], by decide⟩

/-- V32 with bit 0 of byte 25 flipped (V34). -/
theorem witness_FingerprintDetectsAFlipItReaches :
    let S : Space := overlay v32 (fun _ => 0)
    let T : Space := fun a => if a = 25 then 0x6E else S a
    (read16 S 36 = 0x8028#16 ∧ (decodeAttrAt S 36 44).err = none ∧ 25 < 36 ∧ 0 < 8 ∧ 36 + 8 ≤ 44) ∧
    (∀ a, a ≠ 25 → T a = S a) ∧ T 25 = S 25 ^^^ BitVec.ofNat 8 (2 ^ 0) :=
  ⟨by decide +kernel, fun a h => by simp [h], by decide +kernel⟩

/-- P1's two attributes, and an empty message. -/
theorem witness_MessageRoundTrip :
    let as := [AttrValue.software [0x6E, 0x6F, 0x64, 0x65, 0x2D, 0x73, 0x74, 0x75, 0x6E], .fingerprint]
    LegalHeader 0x0000 0x0001 ∧ (∀ a ∈ as, encodable a = true) ∧ (∀ a ∈ as.dropLast, a ≠ .fingerprint) ∧
    (encodeMessage 0x0000 0x0001 (asTid tid0) as).length ≤ Config.mbSize := by
  refine ⟨by decide, by decide +kernel, by decide +kernel, by decide +kernel⟩

theorem witness_EncodeProgramProducesTheMessage :
    let as := [AttrValue.mapped 1 0x8055 (some 0xC0000201), .xorMapped 1 0 (some 0)]
    LegalHeader 0x0110 0x0001 ∧ (∀ a ∈ as, encodable a = true) ∧
    (encodeMessage 0x0110 0x0001 (asTid tidB) as).length ≤ Config.mbSize := by
  refine ⟨by decide, by decide +kernel, by decide +kernel⟩

theorem witness_RegisterWritesStoreTheirWidth :
    Reg.aPort.writable = true ∧ (startWith [.wr Reg.aPort.number 0x18055]).port = .wr Reg.aPort.number 0x18055 :: [] ∧
    (Reg.expTid 11).writable = true := ⟨rfl, rfl, rfl⟩

/-- V60, V61, and the ends of the undefined ranges. -/
theorem witness_OtherRegisterWritesHaveNoEffect :
    (startWith [.wr 0x06 100]).port = .wr 0x06 100 :: [] ∧ (startWith [.rd 0x0F]).port = .rd 0x0F :: [] ∧
    ∀ n ∈ [0x08, 0x0F, 0x13, 0x1F, 0x2C, 0x2F, 0x3C, 0x3F, 0x4C, 0x4F, 0x53, 0xFF], UndefinedNumber (BitVec.ofNat 8 n) := by
  decide

/-- V62: the last offset of each buffer and the first beyond it. -/
theorem witness_ReadsReturnAndChangeNothing :
    (startWith [.rd Reg.cur.number]).port = .rd Reg.cur.number :: [] ∧ (startWith [.rd 0x00]).port = .rd 0x00 :: [] ∧
    UndefinedNumber 0xFF ∧ (startWith [.rb 65552]).port = .rb 65552 :: [] ∧
    (startWith [.rv 65528]).port = .rv 65528 :: [] ∧ (65551#17 : Offset).toNat < 65552 ∧ (65527#17 : Offset).toNat < 65528 := by
  decide

theorem witness_ByteWritesStoreOneByte :
    (startWith [.wb 65551 0xAA]).port = .wb 65551 0xAA :: [] ∧ (65551#17 : Offset).toNat < 65552 ∧
    65552 ≤ (65552#17 : Offset).toNat ∧ (startWith [.wv 65527 1]).port = .wv 65527 1 :: [] ∧
    (65527#17 : Offset).toNat < 65528 ∧ 65528 ≤ (65528#17 : Offset).toNat := by decide

end Sys2Proof.Machine.Tests
end

/-! PROOF. The state family (10_state.md): the step and the register file, the invariant (one lemma per operation on the
state that says the operation keeps it, then one per command, then the step), the error record, and which instructions
write which registers and buffers. -/

namespace Sys2Proof.Machine

/-! ## The step (R24, R69, R272) -/

/-- With no event pending a step changes nothing (R272). -/
theorem step_of_port_nil {s : State} (h : s.port = []) : step s = .next s := by simp [step, h]

/-- A step applies the oldest event (R69). -/
theorem step_of_port_cons {s : State} {e : Event} {rest : List Event} (h : s.port = e :: rest) :
    step s = runEvent e (takeEvent rest s) := by simp [step, h]

/-- A write to CMD runs the command written (R24). -/
theorem runEvent_command (v : Word) (s : State) : runEvent (.wr 0x00#8 v) s = exec (commandOf v) s := rfl

/-- Settles O6: the oldest event is the command's, and the decoder's word for it is the one the port runs. -/
theorem stepRunsTheCommandWritten : Obligations.StepRunsTheCommandWritten := by
  refine ⟨fun s v rest i hp hd => ?_, fun s hp => step_of_port_nil hp⟩
  obtain rfl : commandOf v = i := congrArg Prod.fst (Except.ok.inj hd)
  rw [step_of_port_cons hp, runEvent_command]
  rfl

/-! ## The register file (R22, R248) -/

theorem regOf_number (r : Reg) : regOf r.number = some r := by
  cases r with
  | hTid i => revert i; decide
  | expTid i => revert i; decide
  | _ => rfl

theorem number_of_mem_regOf : ∀ n : Byte, ∀ r ∈ regOf n, r.number = n := by decide +kernel

theorem regOf_eq_none_iff : ∀ n : Byte, regOf n = none ↔ n = 0x00#8 ∨ UndefinedNumber n := by decide +kernel

/-- Settles O56: register by register one way, number by number the other. -/
theorem registerNumbersNameRegisters : Obligations.RegisterNumbersNameRegisters :=
  ⟨regOf_number, number_of_mem_regOf, regOf_eq_none_iff⟩

/-! ## The sizes of R9 as numerals, for arithmetic -/

theorem mbSize_eq : Config.mbSize = 65552 := rfl

theorem vbSize_eq : Config.vbSize = 65528 := rfl

/-! ## The invariant under the shared operations -/

/-- With every register 0 the invariant asks for canonical buffers only. -/
theorem State.inv_clearRegisters {s : State} (hmb : Memory.wf Config.mbSize s.mb = true)
    (hvb : Memory.wf Config.vbSize s.vb = true) : s.clearRegisters.Inv where
  mbWf := hmb
  vbWf := hvb
  errCode := Nat.zero_le _
  firstErrCode := Nat.zero_le _
  firstErrOp _ := rfl
  addrLen := .inl rfl
  voff := .inl ⟨rfl, rfl⟩
  hLen := rfl
  cursor h := absurd rfl h
  encLen h := nomatch h
  decEnd h := nomatch h

/-- Settles O10: hardware reset leaves every register 0 and no byte written. -/
theorem resetMeetsTheInvariant : Obligations.ResetMeetsTheInvariant :=
  State.inv_clearRegisters (s := State.reset) rfl rfl

theorem State.Inv.takeEvent {s : State} (h : s.Inv) (rest : List Event) : (takeEvent rest s).Inv := { h with }

theorem State.Inv.withReply {s : State} (h : s.Inv) (r : Reply) : State.Inv { s with reply := r } := { h with }

theorem State.Inv.succeed {s : State} (h : s.Inv) : s.succeed.Inv := { h with errCode := Nat.zero_le _ }

/-- What a failure records is a code of R260, and an operation code only beside one. -/
theorem State.Inv.refusal {s : State} (h : s.Inv) (op : Byte) (e : ErrCode) : (s.refusal op e).Inv :=
  { h with
    errCode := e.toByte_range.2
    firstErrCode := by
      rw [State.refusal_firstCode]
      split
      · exact e.toByte_range.2
      · exact h.firstErrCode
    firstErrOp := by
      rw [State.refusal_firstCode, State.refusal_firstOp]
      split
      · exact fun he => absurd he e.toByte_ne_zero
      · exact fun h0 => absurd h0 ‹_› }

/-- The bounds of a message in progress are void in IDLE mode. -/
theorem State.Inv.toIdleWith {s : State} (h : s.Inv) {l : Half} (hl : l.toNat % 4 = 0) :
    State.Inv { s with hLen := l, mode := .idle } :=
  { h with
    hLen := hl
    cursor := fun hm => absurd rfl hm
    encLen := nofun
    decEnd := nofun }

theorem State.Inv.toIdle {s : State} (h : s.Inv) : State.Inv { s with mode := .idle } := h.toIdleWith h.hLen

theorem State.Inv.parseError {s : State} (h : s.Inv) (op : Byte) (e : ErrCode) : (s.parseError op e).Inv :=
  (h.refusal op e).toIdle

/-- A new record A_TYPE to A_OFF keeps the invariant where it meets R46 and R49. -/
theorem State.Inv.withAttr {s : State} (h : s.Inv) {r : AttrRecord} (hlen : r.addrLen = 0 ∨ r.addrLen = 4)
    (hoff : r.voff.toNat = r.off.toNat + 4) : State.Inv { s with attr := r } :=
  { h with addrLen := hlen, voff := .inr hoff }

theorem State.Inv.withVb {s : State} (h : s.Inv) {m : Memory} (hm : Memory.wf Config.vbSize m = true) :
    State.Inv { s with vb := m } := { h with vbWf := hm }

/-- A cursor that moves on inside the section of a decode. -/
theorem State.Inv.withCursor {s : State} (h : s.Inv) (hmode : s.mode = .dec) {c : Offset} (hlo : 20 ≤ c.toNat)
    (hhi : c.toNat ≤ s.endOff.toNat) (hal : (c.toNat - 20) % 4 = 0) : State.Inv { s with cur := c } :=
  { h with
    cursor := fun _ => ⟨hlo, hhi.trans (h.decEnd hmode).2.1, hal⟩
    encLen := fun he => by simp [hmode] at he
    decEnd := fun _ => ⟨hhi, (h.decEnd hmode).2⟩ }

/-! ## The invariant under the host's operations -/

/-- No writable register is one the invariant speaks of. -/
theorem State.Inv.write {s : State} (h : s.Inv) (r : Reg) (v : Word) : (r.write v s).Inv := by
  cases r <;> exact { h with }

theorem State.Inv.writeRegister {s : State} (h : s.Inv) (n : Byte) (v : Word) : (writeRegister n v s).Inv := by
  unfold Machine.writeRegister
  split
  · exact h.write _ v
  · exact h

theorem State.Inv.writeMb {s : State} (h : s.Inv) (off : Offset) (b : Byte) : (writeMb off b s).Inv := by
  unfold Machine.writeMb
  split
  · next hoff => exact { h with mbWf := Memory.wf_set hoff h.mbWf }
  · exact h

theorem State.Inv.writeVb {s : State} (h : s.Inv) (off : Offset) (b : Byte) : (writeVb off b s).Inv := by
  unfold Machine.writeVb
  split
  · next hoff => exact h.withVb (Memory.wf_set hoff h.vbWf)
  · exact h

/-! ## The invariant under the commands -/

/-- HDR_BUILD: H_LEN is 0, MODE IDLE. -/
theorem execHdrBuild_keeps_inv {s t : State} (h : s.Inv) (hx : execHdrBuild s = .next t) : t.Inv := by
  rcases execHdrBuild_cases hx with rfl | ⟨rfl, -⟩ | rfl
  · exact h.refusal _ _
  · exact State.Inv.succeed { h.toIdleWith (l := 0) rfl with }
  · exact (h.toIdleWith rfl).succeed

/-- HDR_ENC: the 20 header bytes lie in MB, CUR is 20 and H_LEN 0. -/
theorem execHdrEnc_keeps_inv {s t : State} (h : s.Inv) (hx : execHdrEnc s = .next t) : t.Inv := by
  rcases execHdrEnc_cases hx with rfl | rfl
  · exact h.refusal _ _
  · exact State.Inv.succeed { h with
      mbWf := Memory.wf_setBytes (by simp [mbSize_eq]) h.mbWf
      hLen := rfl
      cursor := fun _ => by simp [mbSize_eq]
      encLen := fun _ => rfl
      decEnd := nofun }

/-- HDR_DEC: a header that passes declares a length that is a multiple of 4 and ends the section in MB (R145). -/
theorem hdrDecode_keeps_inv {mt : Half} {s t : State} (h : s.Inv) (hx : hdrDecode mt s = .next t) : t.Inv := by
  rcases hdrDecode_cases hx with ⟨e, -, rfl⟩ | ⟨hd, hok, rfl⟩
  · exact h.parseError _ _
  · obtain ⟨⟨-, hn⟩, -, -, -, ⟨hal, hlen⟩, -, rfl⟩ := decodeHeaderAs_eq_ok.mp hok
    have hend : (BitVec.ofNat 17 (20 + (read16 s.mbSpace 2).toNat)).toNat = 20 + (read16 s.mbSpace 2).toNat := by
      rw [BitVec.toNat_ofNat]; omega
    exact State.Inv.succeed { h with
      hLen := hal
      cursor := fun _ => by simp [mbSize_eq]
      encLen := nofun
      decEnd := fun _ => by
        simp only [hend]
        exact ⟨Nat.le_add_right _ _, by omega, trivial⟩ }

/-- What ATTR_ENC appends leaves MB canonical where it fits (R165). -/
theorem appendAttr_mb_wf (k : Kind) {s : State} (hmb : Memory.wf Config.mbSize s.mb = true)
    (hfit : s.cur.toNat + wireSize (valueLength k s.attr) ≤ Config.mbSize) :
    Memory.wf Config.mbSize (appendAttr k s).mb = true := by
  rw [appendAttr_mb]
  refine Memory.wf_setBytes ?_ (Memory.wf_setBytes (by simp [mbSize_eq]) hmb)
  rwa [length_attrBytes_encodeValue]

/-- ATTR_ENC starts from A_ADDRLEN 0, and an address value makes it 4 (R46). -/
theorem appendAttr_addrLen (k : Kind) (s : State) :
    (appendAttr k s).attr.addrLen = 0 ∨ (appendAttr k s).attr.addrLen = 4 := by
  obtain ⟨-, -, -, -, -, -, -, -, haddrLen⟩ := encodeValue_keeps k (lengthened k s).mbSpace s.vbSpace s.cur.toNat
    (valueLength k s.attr) (startRecord k s)
  exact haddrLen rfl

/-- ATTR_ENC: the cursor and H_LEN advance by the on-wire size, a multiple of 4 (R164, R165). -/
theorem execAttrEnc_keeps_inv {s t : State} (h : s.Inv) (hx : execAttrEnc s = .next t) : t.Inv := by
  rcases execAttrEnc_cases hx with ⟨e, -, rfl⟩ | ⟨hmode, hk, hlo, hfit, rfl⟩
  · exact h.refusal _ _
  · obtain ⟨-, -, hcur, hLen, -, hoff, hvoff, -⟩ := appendAttr_appended _ s hmode hk hlo hfit
    set n := wireSize (valueLength (kindOf s.attr.typ) s.attr)
    have hn4 : n % 4 = 0 := wireSize_mod _
    obtain ⟨-, -, hal⟩ := h.cursor (by simp [hmode])
    have hlenOld := h.encLen hmode
    have hLen' : (appendAttr (kindOf s.attr.typ) s).succeed.hLen.toNat = s.hLen.toNat + n := by
      rw [mbSize_eq] at hfit
      rw [hLen, BitVec.toNat_add, BitVec.toNat_ofNat]; omega
    exact {
      mbWf := appendAttr_mb_wf _ h.mbWf hfit
      vbWf := h.vbWf
      errCode := Nat.zero_le _
      firstErrCode := h.firstErrCode
      firstErrOp := h.firstErrOp
      addrLen := appendAttr_addrLen _ s
      voff := .inr (by rw [hvoff, hoff])
      hLen := by omega
      cursor := fun _ => by omega
      encLen := fun _ => by omega
      decEnd := fun hm => by simp [hmode] at hm }

/-- The text ATTR_DEC takes from the section fits VB: VBSIZE is what a section can hold (R163, R174). -/
theorem length_decodeAttrAs_text_le (t : Half) (k : Kind) (B : Space) {o stop : Nat} (ho : 20 ≤ o)
    (hstop : stop ≤ Config.mbSize) :
    (decodeAttrAs t k (valueDecoder k) B o stop).text.length ≤ Config.vbSize := by
  rw [decodeAttrAs_text]
  split
  · next hfr =>
    have : attrLength B o + 4 ≤ wireSize (attrLength B o) := by unfold wireSize padded; omega
    rw [mbSize_eq] at hstop
    rw [length_slice, vbSize_eq]; omega
  · exact Nat.zero_le _

/-- ATTR_DEC: the record meets R46 and R49, and the cursor moves on inside the section (R173). -/
theorem attrDecode_keeps_inv {ty : Half} {k : Kind} {s t : State} (h : s.Inv)
    (hx : attrDecode ty k (valueDecoder k) s = .next t) : t.Inv := by
  rcases attrDecode_cases hx with ⟨-, rfl⟩ | ⟨hmode, -, ⟨hlo, hhi, hend⟩, hres⟩
  · exact h.refusal _ _
  · rw [mbSize_eq] at hhi hend
    obtain ⟨-, -, -, hoff, hvoff, hlen⟩ := decodeAttrAs_heads ty k s.mbSpace s.cur.toNat s.endOff.toNat
    have hrec := h.withAttr hlen (by rw [hoff, hvoff, BitVec.toNat_ofNat, BitVec.toNat_ofNat]; omega)
    rcases hres with ⟨e, -, rfl⟩ | ⟨hnone, rfl⟩
    · exact hrec.parseError _ _
    · have hfr := decodeAttrAs_err_none hnone
      have hsz := wireSize_mod (attrLength s.mbSpace s.cur.toNat)
      obtain ⟨-, -, hal⟩ := h.cursor (by simp [hmode])
      have hcur : (BitVec.ofNat 17 (s.cur.toNat + wireSize (attrLength s.mbSpace s.cur.toNat))).toNat =
          s.cur.toNat + wireSize (attrLength s.mbSpace s.cur.toNat) := by rw [BitVec.toNat_ofNat]; omega
      have hvb := Memory.wf_setBytes (a := 0)
        (by simpa using length_decodeAttrAs_text_le ty k s.mbSpace hlo hend) h.vbWf
      exact ((hrec.withVb hvb).withCursor hmode (by omega) (hcur.trans_le hfr) (by omega)).succeed

/-- MSG_END ends the message in progress. -/
theorem execMsgEnd_keeps_inv {s t : State} (h : s.Inv) (hx : execMsgEnd s = .next t) : t.Inv := by
  rcases execMsgEnd_cases hx with ⟨rfl, -⟩ | ⟨rfl, -⟩ | ⟨rfl, -⟩
  · exact h.refusal _ _
  · exact State.Inv.succeed { h.toIdle with }
  · exact h.toIdle.succeed

theorem execCrcRun_keeps_inv {s t : State} (h : s.Inv) (hx : execCrcRun s = .next t) : t.Inv := by
  rcases execCrcRun_cases hx with rfl | rfl
  · exact h.refusal _ _
  · exact State.Inv.succeed { h with }

theorem execClrErr_keeps_inv {s t : State} (h : s.Inv) (hx : execClrErr s = .next t) : t.Inv := by
  obtain rfl := (done_eq_next _ _).mp hx
  exact State.Inv.succeed { h with firstErrCode := Nat.zero_le _, firstErrOp := fun _ => rfl }

/-- Every instruction, ill-formed terms included, keeps the invariant. -/
theorem exec_keeps_inv {i : Instr} {s t : State} (h : s.Inv) (hx : exec i s = .next t) : t.Inv := by
  rcases instr_cases_any i s with
    rfl | rfl | rfl | rfl | rfl | rfl | rfl | rfl | ⟨op, rfl⟩ | ⟨-, mt, he⟩ | ⟨-, ty, k, he⟩
  · cases hx; exact h.succeed
  · cases hx; exact State.inv_clearRegisters h.mbWf h.vbWf
  · exact execClrErr_keeps_inv h hx
  · exact execMsgEnd_keeps_inv h hx
  · exact execHdrBuild_keeps_inv h hx
  · exact execHdrEnc_keeps_inv h hx
  · exact execAttrEnc_keeps_inv h hx
  · exact execCrcRun_keeps_inv h hx
  · cases hx; exact h.refusal _ _
  · exact hdrDecode_keeps_inv h (he ▸ hx)
  · exact attrDecode_keeps_inv h (he ▸ hx)

/-- Every event keeps the invariant. -/
theorem runEvent_keeps_inv {e : Event} {s t : State} (h : s.Inv) (hx : runEvent e s = .next t) : t.Inv := by
  cases e with
  | wr n v =>
    simp only [runEvent] at hx
    split at hx
    · exact exec_keeps_inv h hx
    · cases hx; exact h.writeRegister n v
  | rd n => cases hx; exact h.withReply _
  | wb off b => cases hx; exact h.writeMb off b
  | rb off => cases hx; exact h.withReply _
  | wv off b => cases hx; exact h.writeVb off b
  | rv off => cases hx; exact h.withReply _
  | hwReset => cases hx; exact { State.inv_clearRegisters h.mbWf h.vbWf with mbWf := rfl, vbWf := rfl }

/-- Settles O11: by the oldest event, then by the command it runs; each keeps the invariant. -/
theorem everyStepKeepsTheInvariant : Obligations.EveryStepKeepsTheInvariant := by
  intro s t h hx
  cases hp : s.port with
  | nil => rw [step_of_port_nil hp] at hx; cases hx; exact h
  | cons e rest => rw [step_of_port_cons hp] at hx; exact runEvent_keeps_inv (h.takeEvent rest) hx

/-! ## The error record -/

/-- R110: every code's instruction reports that code. -/
theorem commandCode_decodeCmd (op : Byte) : commandCode (decodeCmd op) = op := by
  revert op; decide +kernel

theorem decodeCmd_eq_reset_iff (op : Byte) : decodeCmd op = .reset ↔ op = 0x01#8 := by
  revert op; decide +kernel

theorem decodeCmd_eq_clrErr_iff (op : Byte) : decodeCmd op = .clrErr ↔ op = 0x02#8 := by
  revert op; decide +kernel

/-- FIRSTERR is its two parts. -/
theorem State.firstErr_congr {s t : State} (hc : t.firstCode = s.firstCode) (ho : t.firstOp = s.firstOp) :
    t.firstErr = s.firstErr := by rw [State.firstErr, State.firstErr, hc, ho]

/-- RESET and CLR_ERR leave the whole error record 0 (R28, R232, R233). -/
theorem exec_clears_errors {i : Instr} {s t : State} (hi : i = .reset ∨ i = .clrErr) (hx : exec i s = .next t) :
    t.err = 0#8 ∧ t.firstErr = 0#16 := by
  rcases hi with rfl | rfl
  · cases hx; exact ⟨rfl, by simp [State.firstErr, State.reset]⟩
  · cases hx; exact ⟨rfl, by simp [State.firstErr]⟩

/-- Every other command succeeds and leaves FIRSTERR, or records its failure under its own code (R28, R264, R268). -/
theorem exec_succeeds_or_records {i : Instr} {s t : State} (hr : i ≠ .reset) (hc : i ≠ .clrErr)
    (hx : exec i s = .next t) : Succeeded s t ∨ ∃ e, Records (commandCode i) e s t := by
  rcases exec_error_cases hx with h | h | ⟨u, rfl, hcode, hop⟩ | ⟨u, e, rfl, hcode, hop, -⟩ | ⟨e, rfl⟩
  · exact absurd h hr
  · exact absurd h hc
  · exact .inl ⟨rfl, State.firstErr_congr hcode hop⟩
  · refine .inr ⟨e, ?_⟩
    have hrec := parseError_records (commandCode i) e u
    rwa [Records, hcode, State.firstErr_congr hcode hop] at hrec
  · exact .inr ⟨e, (refusal_refused _ _ _).1⟩

/-- Settles O15: by how a command ends. -/
theorem firstFailureStands : Obligations.FirstFailureStands := by
  intro op s t hx
  by_cases hclear : op = 0x01#8 ∨ op = 0x02#8
  · have hi : decodeCmd op = .reset ∨ decodeCmd op = .clrErr :=
      hclear.imp (decodeCmd_eq_reset_iff op).mpr (decodeCmd_eq_clrErr_iff op).mpr
    obtain ⟨herr, hfirst⟩ := exec_clears_errors hi hx
    refine ⟨fun _ h => absurd herr h, fun _ h => absurd herr h, fun _ h1 h2 => ?_, fun _ => hfirst⟩
    exact absurd hclear (not_or.mpr ⟨h1, h2⟩)
  · obtain ⟨hne1, hne2⟩ := not_or.mp hclear
    rcases exec_succeeds_or_records (mt (decodeCmd_eq_reset_iff op).mp hne1)
      (mt (decodeCmd_eq_clrErr_iff op).mp hne2) hx with ⟨herr, hfirst⟩ | ⟨e, herr, hfree, hstands⟩
    · exact ⟨fun _ h => absurd herr h, fun _ h => absurd herr h, fun _ _ _ => hfirst, fun h => absurd h hclear⟩
    · rw [commandCode_decodeCmd] at hfree
      refine ⟨fun h _ => hstands h, fun h _ => by rw [hfree h, herr], fun h => ?_, fun h => absurd h hclear⟩
      exact absurd (herr.symm.trans h) e.toByte_ne_zero

/-! ## Which instructions write which registers (R22) -/

/-- ATTR_ENC leaves the operands the host wrote (R161). -/
theorem appendAttr_operands (k : Kind) (s : State) :
    (appendAttr k s).attr.typ = s.attr.typ ∧ (appendAttr k s).attr.family = s.attr.family ∧
    (appendAttr k s).attr.port = s.attr.port ∧ (appendAttr k s).attr.addr = s.attr.addr := by
  obtain ⟨htyp, -, -, hfamily, hport, haddr, -⟩ := encodeValue_keeps k (lengthened k s).mbSpace s.vbSpace s.cur.toNat
    (valueLength k s.attr) (startRecord k s)
  exact ⟨htyp, hfamily, hport, haddr⟩

/-- Settles O18: by instruction and by how it ends; a register that is not written stays by the field laws. -/
theorem onlyTheirCommandsWriteRegisters : Obligations.OnlyTheirCommandsWriteRegisters := by
  intro i s t hw hx hne
  rcases instr_cases i hw s with
    rfl | rfl | rfl | rfl | rfl | rfl | rfl | rfl | ⟨op, rfl⟩ | ⟨hc, mt, he⟩ | ⟨hc, ty, he⟩
  · cases hx; simp [State.firstErr]
  · exact absurd rfl hne
  · cases hx; simp
  · rcases execMsgEnd_cases hx with ⟨rfl, -⟩ | ⟨rfl, -⟩ | ⟨rfl, -⟩ <;> simp [State.firstErr, ErrCode.toByte_ne_zero]
  · rcases execHdrBuild_cases hx with rfl | ⟨rfl, hgen⟩ | rfl
    · simp [ErrCode.toByte_ne_zero]
    · simp [State.firstErr, hgen]
    · simp [State.firstErr]
  · rcases execHdrEnc_cases hx with rfl | rfl <;> simp [State.firstErr, ErrCode.toByte_ne_zero]
  · rcases execAttrEnc_cases hx with ⟨e, -, rfl⟩ | ⟨-, -, -, -, rfl⟩
    · simp [ErrCode.toByte_ne_zero]
    · simp [State.firstErr, appendAttr_operands]
  · rcases execCrcRun_cases hx with rfl | rfl <;> simp [State.firstErr, ErrCode.toByte_ne_zero]
  · cases hx; simp [ErrCode.toByte_ne_zero]
  · rcases hdrDecode_cases (he ▸ hx) with ⟨e, -, rfl⟩ | ⟨hd, -, rfl⟩ <;>
      simp [hc, State.firstErr, ErrCode.toByte_ne_zero]
  · rcases attrDecode_cases (he ▸ hx) with ⟨-, rfl⟩ | ⟨-, -, -, ⟨e, -, rfl⟩ | ⟨-, rfl⟩⟩ <;>
      simp [hc, State.firstErr, ErrCode.toByte_ne_zero]

/-! ## Which instructions write the buffers (R51) -/

/-- Every instruction that is no encode and no ATTR_DEC leaves both buffers. -/
theorem exec_keepsBuffers {i : Instr} {s t : State} (hw : i.wf = true) (henc : ¬ (i = .hdrEnc ∨ i = .attrEnc))
    (hattr : commandCode i ≠ 0x21#8) (hx : exec i s = .next t) : KeepsBuffers s t := by
  rcases instr_cases i hw s with
    rfl | rfl | rfl | rfl | rfl | rfl | rfl | rfl | ⟨op, rfl⟩ | ⟨-, mt, he⟩ | ⟨hc, -⟩
  · cases hx; exact ⟨fun _ => rfl, fun _ => rfl⟩
  · cases hx; exact ⟨fun _ => rfl, fun _ => rfl⟩
  · cases hx; exact ⟨fun _ => rfl, fun _ => rfl⟩
  · rcases execMsgEnd_cases hx with ⟨rfl, -⟩ | ⟨rfl, -⟩ | ⟨rfl, -⟩ <;> exact ⟨fun _ => rfl, fun _ => rfl⟩
  · rcases execHdrBuild_cases hx with rfl | ⟨rfl, -⟩ | rfl <;> exact ⟨fun _ => rfl, fun _ => rfl⟩
  · exact absurd (.inl rfl) henc
  · exact absurd (.inr rfl) henc
  · rcases execCrcRun_cases hx with rfl | rfl <;> exact ⟨fun _ => rfl, fun _ => rfl⟩
  · cases hx; exact ⟨fun _ => rfl, fun _ => rfl⟩
  · rcases hdrDecode_cases (he ▸ hx) with ⟨e, -, rfl⟩ | ⟨hd, -, rfl⟩ <;> exact ⟨fun _ => rfl, fun _ => rfl⟩
  · exact absurd hc hattr

/-- The encode commands leave VB (R161). -/
theorem exec_encode_keeps_vb {i : Instr} {s t : State} (hi : i = .hdrEnc ∨ i = .attrEnc) (hx : exec i s = .next t) :
    ∀ a, t.vbSpace a = s.vbSpace a := by
  rcases hi with rfl | rfl
  · rcases execHdrEnc_cases hx with rfl | rfl <;> exact fun _ => rfl
  · rcases execAttrEnc_cases hx with ⟨e, -, rfl⟩ | ⟨-, -, -, -, rfl⟩ <;> exact fun _ => rfl

/-- ATTR_DEC leaves both buffers unless it recorded a Software (R172, R181, R185). -/
theorem attrDecode_keepsBuffers {ty : Half} {k : Kind} {s t : State}
    (hx : attrDecode ty k (valueDecoder k) s = .next t) (hk : t.attr.kind ≠ .software) : KeepsBuffers s t := by
  rcases attrDecode_cases hx with ⟨-, rfl⟩ | ⟨-, -, -, ⟨e, -, rfl⟩ | ⟨-, rfl⟩⟩
  · exact ⟨fun _ => rfl, fun _ => rfl⟩
  · exact ⟨fun _ => rfl, fun _ => rfl⟩
  · obtain ⟨-, -, hkind, -⟩ := decodeAttrAs_heads ty k s.mbSpace s.cur.toNat s.endOff.toNat
    have htext : (decodeAttrAs ty k (valueDecoder k) s.mbSpace s.cur.toNat s.endOff.toNat).text = [] := by
      rw [decodeAttrAs_text, if_neg fun h => hk (hkind.trans h.1)]
    exact ⟨fun _ => rfl, fun _ => by rw [htext]; rfl⟩

/-- ATTR_DEC leaves MB in every case. -/
theorem attrDecode_keeps_mb {ty : Half} {k : Kind} {value : ValueDecoder} {s t : State}
    (hx : attrDecode ty k value s = .next t) : ∀ a, t.mbSpace a = s.mbSpace a := by
  rcases attrDecode_cases hx with ⟨-, rfl⟩ | ⟨-, -, -, ⟨e, -, rfl⟩ | ⟨-, rfl⟩⟩ <;> exact fun _ => rfl

/-- Settles O19: an encode writes MB only, ATTR_DEC VB only, every other instruction neither. -/
theorem onlyTheirCommandsWriteBuffers : Obligations.OnlyTheirCommandsWriteBuffers := by
  intro i s t hw hx
  by_cases henc : i = .hdrEnc ∨ i = .attrEnc
  · exact ⟨fun _ => henc, fun ⟨a, ha⟩ => absurd (exec_encode_keeps_vb henc hx a) ha⟩
  by_cases hattr : commandCode i = 0x21#8
  · obtain ⟨ty, he⟩ := exec_of_attribute hw hattr s
    rw [he] at hx
    refine ⟨fun ⟨a, ha⟩ => absurd (attrDecode_keeps_mb hx a) ha, fun ⟨a, ha⟩ => ⟨hattr, ?_⟩⟩
    by_contra hk
    exact ha ((attrDecode_keepsBuffers hx hk).2 a)
  · have hkeep := exec_keepsBuffers hw henc hattr hx
    exact ⟨fun ⟨a, ha⟩ => absurd (hkeep.1 a) ha, fun ⟨a, ha⟩ => absurd (hkeep.2 a) ha⟩

end Sys2Proof.Machine

/-! PROOF. The encoding family (30_encoding.md): the three tables (what a lookup finds, what their rows hold), a message
type by its parts, the two directions of the round trip place by place, the readings of a message type, and the
transitions of MODE command by command. -/

namespace Sys2Proof.Machine

/-! ## A lookup in a table with a default row (R111, R116) -/

/-- Every code is one of the table's, or stands in none of its rows and takes the default. -/
theorem lookup_getD_cases {n : Nat} (rows : List (BitVec n × Instr)) (a : BitVec n) (d : Instr) :
    (a, (rows.lookup a).getD d) ∈ rows ∨ ((∀ r ∈ rows, a ≠ r.1) ∧ (rows.lookup a).getD d = d) := by
  cases h : rows.lookup a with
  | none => exact .inr ⟨fun r hr => bne_iff_ne.mp (List.lookup_eq_none_iff.mp h r hr), rfl⟩
  | some i =>
    obtain ⟨before, after, rfl, -⟩ := List.lookup_eq_some_iff.mp h
    exact .inl (by simp)

/-- A code that stands in no row takes the default. -/
theorem lookup_getD_default {n : Nat} {rows : List (BitVec n × Instr)} {a : BitVec n} (d : Instr)
    (h : ∀ r ∈ rows, a ≠ r.1) : (rows.lookup a).getD d = d := by
  rw [List.lookup_eq_none_iff.mpr fun r hr => bne_iff_ne.mpr (h r hr), Option.getD_none]

/-- R111: the undefined codes are those in no row of R110. -/
theorem undefinedCode_iff : ∀ op : Byte, undefinedCode op = true ↔ ∀ r ∈ commandRows, op ≠ r.1 := by decide +kernel

/-- R90: the unrecognised message types are those in no row. -/
theorem wf_mtUnrecognised_iff (mt : Half) : (Instr.mtUnrecognised mt).wf = true ↔ ∀ r ∈ msgTypeRows, mt ≠ r.1 := by
  simp [Instr.wf, msgTypeRows, and_assoc]

/-- R107: the generic attribute types are those in no row. -/
theorem wf_generic_iff (t : Half) : (Instr.generic t).wf = true ↔ ∀ r ∈ attrTypeRows, t ≠ r.1 := by
  simp [Instr.wf, attrTypeRows, typeMappedAddress, typeXorMappedAddress, typeSoftware, typeFingerprint, and_assoc]

theorem decodeMsgType_of_wf {mt : Half} (h : (Instr.mtUnrecognised mt).wf = true) :
    decodeMsgType mt = .mtUnrecognised mt := lookup_getD_default _ ((wf_mtUnrecognised_iff mt).mp h)

theorem decodeAttrType_of_wf {t : Half} (h : (Instr.generic t).wf = true) : decodeAttrType t = .generic t :=
  lookup_getD_default _ ((wf_generic_iff t).mp h)

/-! ## A message type by its parts (R88, R89, R91) -/

/-- A word cut into two bytes and taken as a word again. -/
theorem halfOfBytes_bytesOfHalf (h : Half) :
    halfOfBytes (BitVec.ofNat 8 (h.toNat / 256)) (BitVec.ofNat 8 (h.toNat % 256)) = h := by
  have := h.isLt
  apply BitVec.eq_of_toNat_eq
  simp only [halfOfBytes, BitVec.toNat_ofNat]
  omega

theorem half_split_masks (m : Half) : (m &&& methodMask) ||| (m &&& classMask) = m := half_split m

/-- The two masks have no bit in common. -/
theorem methodMask_and_classMask (m : Half) : m &&& methodMask &&& classMask = 0#16 := by
  rw [BitVec.and_assoc, show methodMask &&& classMask = 0#16 by decide, BitVec.and_zero]

theorem classMask_and_methodMask (m : Half) : m &&& classMask &&& methodMask = 0#16 := by
  rw [BitVec.and_assoc, show classMask &&& methodMask = 0#16 by decide, BitVec.and_zero]

theorem and_methodMask_of_no_class {r : Half} (h : r &&& classMask = 0#16) : r &&& methodMask = r := by
  simpa [h] using half_split_masks r

theorem and_classMask_of_no_method {c : Half} (h : c &&& methodMask = 0#16) : c &&& classMask = c := by
  simpa [h] using half_split_masks c

/-- A class put beside bits outside the class mask is read back. -/
theorem or_and_classMask {r c : Half} (hr : r &&& classMask = 0#16) (hc : c &&& methodMask = 0#16) :
    (r ||| c) &&& classMask = c := by
  rw [BitVec.and_or_distrib_right, hr, and_classMask_of_no_method hc, BitVec.zero_or]

/-- And so are those bits. -/
theorem or_and_methodMask {r c : Half} (hr : r &&& classMask = 0#16) (hc : c &&& methodMask = 0#16) :
    (r ||| c) &&& methodMask = r := by
  rw [BitVec.and_or_distrib_right, hc, and_methodMask_of_no_class hr, BitVec.or_zero]

/-- R88: the class bits of a word are one of the four patterns. -/
theorem and_classMask_cases (m : Half) :
    m &&& classMask = 0x0000#16 ∨ m &&& classMask = 0x0010#16 ∨ m &&& classMask = 0x0100#16 ∨
    m &&& classMask = 0x0110#16 := by
  rw [show classMask = BitVec.twoPow 16 4 ||| BitVec.twoPow 16 8 by decide, BitVec.and_or_distrib_left,
    BitVec.and_twoPow, BitVec.and_twoPow]
  cases m.getLsbD 4 <;> cases m.getLsbD 8 <;> decide

/-! ## Decoding what was encoded (R116) -/

theorem decode_msgType (h : Half) (rest : List Byte) :
    decode .msgType (bytesOfHalf h ++ rest) = .ok (decodeMsgType h, rest) := by
  simp [bytesOfHalf, decode, halfOfBytes_bytesOfHalf]

theorem decode_leadingBits (h : Half) (rest : List Byte) :
    decode .leadingBits (bytesOfHalf h ++ rest) = (decodeLeading h).map (·, rest) := by
  simp [bytesOfHalf, decode, halfOfBytes_bytesOfHalf]

theorem decode_msgClass (h : Half) (rest : List Byte) :
    decode .msgClass (bytesOfHalf h ++ rest) = .ok (decodeClass h, rest) := by
  simp [bytesOfHalf, decode, halfOfBytes_bytesOfHalf]

theorem decode_method (h : Half) (rest : List Byte) :
    decode .method (bytesOfHalf h ++ rest) = (decodeMethod h).map (·, rest) := by
  simp [bytesOfHalf, decode, halfOfBytes_bytesOfHalf]

theorem decode_attrType (h : Half) (rest : List Byte) :
    decode .attrType (bytesOfHalf h ++ rest) = .ok (decodeAttrType h, rest) := by
  simp [bytesOfHalf, decode, halfOfBytes_bytesOfHalf]

/-- R88: bits outside the class mask, with a class pattern `c`, are read as the class row of `c` with those bits. -/
theorem decode_msgClass_or {r : Half} (c : Half) (rest : List Byte) (hr : r &&& classMask = 0#16)
    (hc : c &&& methodMask = 0#16) :
    decode .msgClass (bytesOfHalf (r ||| c) ++ rest) =
      .ok (if c = 0x0000#16 then .classRequest r else if c = 0x0010#16 then .classIndication r
        else if c = 0x0100#16 then .classSuccessResponse r else .classErrorResponse r, rest) := by
  rw [decode_msgClass, decodeClass, or_and_classMask hr hc, or_and_methodMask hr hc]

/-- Settles O1: a row of a table holds fixed bytes, so its round trip is a computation; a row with an operand is read
back by the part of the word its mask leaves open, a default row because no other row takes its word. -/
theorem decodeReadsBackEncode : Obligations.DecodeReadsBackEncode := by
  intro i rest hw
  cases i with
  | cmdUndefined op => exact congrArg (fun i => Except.ok (i, rest)) (decodeCmd_of_undefined op hw)
  | mtLeadingZero w =>
    have hz : w &&& leadingMask = 0#16 := eq_of_beq hw
    rw [slotOf, encode, decode_leadingBits, decodeLeading, if_pos hz]; rfl
  | classRequest r => exact decode_msgClass_or 0x0000#16 rest (eq_of_beq hw) (by decide)
  | classIndication r => exact decode_msgClass_or 0x0010#16 rest (eq_of_beq hw) (by decide)
  | classSuccessResponse r => exact decode_msgClass_or 0x0100#16 rest (eq_of_beq hw) (by decide)
  | classErrorResponse r => exact decode_msgClass_or 0x0110#16 rest (eq_of_beq hw) (by decide)
  | methodBinding c =>
    have hb : bindingPattern &&& classMask = 0#16 := by decide
    have hc : c &&& methodMask = 0#16 := eq_of_beq hw
    rw [slotOf, encode, decode_method, decodeMethod, or_and_methodMask hb hc, or_and_classMask hb hc, if_pos rfl]; rfl
  | mtUnrecognised mt => rw [slotOf, encode, decode_msgType, decodeMsgType_of_wf hw]
  | generic t => rw [slotOf, encode, decode_attrType, decodeAttrType_of_wf hw]
  | _ => rfl

/-! ## Encoding what was decoded (R116) -/

/-- The word `w`, read at place `p`, is the instruction `i`. -/
structure IsWord (p : Slot) (w : List Byte) (i : Instr) : Prop where
  wf : i.wf = true
  place : slotOf i = p
  bytes : encode i = w

theorem isWord_iff (p : Slot) (w : List Byte) (i : Instr) :
    IsWord p w i ↔ i.wf = true ∧ slotOf i = p ∧ encode i = w :=
  ⟨fun h => ⟨h.wf, h.place, h.bytes⟩, fun ⟨hwf, hplace, hbytes⟩ => ⟨hwf, hplace, hbytes⟩⟩

/-- Every row of the three tables holds the word of its instruction. -/
theorem isWord_commandRow : ∀ r ∈ commandRows, IsWord .command [r.1] r.2 := by
  simp [commandRows, isWord_iff, Instr.wf, slotOf, encode]

theorem isWord_msgTypeRow : ∀ r ∈ msgTypeRows, IsWord .msgType (bytesOfHalf r.1) r.2 := by
  simp [msgTypeRows, isWord_iff, Instr.wf, slotOf, encode, bytesOfHalf]

theorem isWord_attrTypeRow : ∀ r ∈ attrTypeRows, IsWord .attrType (bytesOfHalf r.1) r.2 := by
  simp [attrTypeRows, isWord_iff, Instr.wf, slotOf, encode, bytesOfHalf, typeMappedAddress, typeXorMappedAddress,
    typeSoftware, typeFingerprint]

theorem isWord_decodeCmd (op : Byte) : IsWord .command [op] (decodeCmd op) := by
  rcases lookup_getD_cases commandRows op (.cmdUndefined op) with hrow | ⟨hnone, hdefault⟩
  · exact isWord_commandRow _ hrow
  · rw [decodeCmd, hdefault]
    exact ⟨(undefinedCode_iff op).mpr hnone, rfl, rfl⟩

theorem isWord_decodeMsgType (mt : Half) : IsWord .msgType (bytesOfHalf mt) (decodeMsgType mt) := by
  rcases lookup_getD_cases msgTypeRows mt (.mtUnrecognised mt) with hrow | ⟨hnone, hdefault⟩
  · exact isWord_msgTypeRow _ hrow
  · rw [decodeMsgType, hdefault]
    exact ⟨(wf_mtUnrecognised_iff mt).mpr hnone, rfl, rfl⟩

theorem isWord_decodeAttrType (t : Half) : IsWord .attrType (bytesOfHalf t) (decodeAttrType t) := by
  rcases lookup_getD_cases attrTypeRows t (.generic t) with hrow | ⟨hnone, hdefault⟩
  · exact isWord_attrTypeRow _ hrow
  · rw [decodeAttrType, hdefault]
    exact ⟨(wf_generic_iff t).mpr hnone, rfl, rfl⟩

theorem isWord_of_decodeLeading {mt : Half} {i : Instr} (h : decodeLeading mt = .ok i) :
    IsWord .leadingBits (bytesOfHalf mt) i := by
  unfold decodeLeading at h
  split at h
  · next hz => cases h; exact ⟨beq_iff_eq.mpr hz, rfl, rfl⟩
  · cases h

theorem isWord_decodeClass (mt : Half) : IsWord .msgClass (bytesOfHalf mt) (decodeClass mt) := by
  have hwf : (mt &&& methodMask &&& classMask == 0#16) = true := beq_iff_eq.mpr (methodMask_and_classMask mt)
  have hsplit := congrArg bytesOfHalf (half_split_masks mt)
  unfold decodeClass
  rcases and_classMask_cases mt with h | h | h | h <;> rw [h] at hsplit ⊢ <;> exact ⟨hwf, rfl, hsplit⟩

theorem isWord_of_decodeMethod {mt : Half} {i : Instr} (h : decodeMethod mt = .ok i) :
    IsWord .method (bytesOfHalf mt) i := by
  unfold decodeMethod at h
  split at h
  · next hb =>
    cases h
    refine ⟨beq_iff_eq.mpr (classMask_and_methodMask mt), rfl, ?_⟩
    rw [encode, ← hb, half_split_masks]
  · cases h

/-- A decoder that may reject has read what the decoder of its word answered. -/
theorem ok_of_map_eq_ok {x : Except Reject Instr} {i : Instr} {bs rest : List Byte}
    (h : x.map (·, bs) = .ok (i, rest)) : x = .ok i ∧ bs = rest := by
  cases x with
  | error r => cases h
  | ok j => cases h; exact ⟨rfl, rfl⟩

/-- What any decoder reads is the word in front of the bytes it leaves. -/
theorem isWord_of_decode {p : Slot} {bs rest : List Byte} {i : Instr} (h : decode p bs = .ok (i, rest)) :
    ∃ w, bs = w ++ rest ∧ IsWord p w i := by
  unfold decode at h
  split at h
  · next b rest' => cases h; exact ⟨[b], rfl, isWord_decodeCmd b⟩
  · next b0 b1 rest' => cases h; exact ⟨[b0, b1], rfl, bytesOfHalf_halfOfBytes b0 b1 ▸ isWord_decodeMsgType _⟩
  · next b0 b1 rest' =>
    obtain ⟨hj, rfl⟩ := ok_of_map_eq_ok h
    exact ⟨[b0, b1], rfl, bytesOfHalf_halfOfBytes b0 b1 ▸ isWord_of_decodeLeading hj⟩
  · next b0 b1 rest' => cases h; exact ⟨[b0, b1], rfl, bytesOfHalf_halfOfBytes b0 b1 ▸ isWord_decodeClass _⟩
  · next b0 b1 rest' =>
    obtain ⟨hj, rfl⟩ := ok_of_map_eq_ok h
    exact ⟨[b0, b1], rfl, bytesOfHalf_halfOfBytes b0 b1 ▸ isWord_of_decodeMethod hj⟩
  · next b0 b1 rest' => cases h; exact ⟨[b0, b1], rfl, bytesOfHalf_halfOfBytes b0 b1 ▸ isWord_decodeAttrType _⟩
  · cases h

/-- Settles O2: by the decoder of each place, whose instruction has the word that was read. -/
theorem encodeReadsBackDecode : Obligations.EncodeReadsBackDecode := by
  intro p bs rest i h
  obtain ⟨w, rfl, hw⟩ := isWord_of_decode h
  exact ⟨hw.wf, hw.place, by rw [hw.bytes]⟩

/-- Settles O3: each word is looked up at the place log entry 7 gives it. -/
theorem wordsOfTheTableDecode : Obligations.WordsOfTheTableDecode :=
  ⟨rfl, rfl, rfl, rfl, rfl, rfl, rfl, rfl, rfl⟩

/-- Settles O5: each reading is the header decode of the whole word (log entry 6). -/
theorem everyReadingOfAMessageTypeAgrees : Obligations.EveryReadingOfAMessageTypeAgrees := by
  intro mt i j hi hj s
  rw [exec_of_readsAs hi, exec_of_readsAs hj]

/-! ## The transitions of MODE (R113) -/

theorem execHdrBuild_mode {s t : State} (h : execHdrBuild s = .next t) :
    (t.err = 0#8 → t.mode = .idle) ∧ (t.err ≠ 0#8 → t.mode = s.mode) := by
  rcases execHdrBuild_cases h with rfl | ⟨rfl, -⟩ | rfl <;> simp [ErrCode.toByte_ne_zero]

theorem execHdrEnc_mode {s t : State} (h : execHdrEnc s = .next t) :
    (t.err = 0#8 → t.mode = .enc) ∧ (t.err ≠ 0#8 → t.mode = s.mode) := by
  rcases execHdrEnc_cases h with rfl | rfl <;> simp [ErrCode.toByte_ne_zero]

theorem hdrDecode_mode {mt : Half} {s t : State} (h : hdrDecode mt s = .next t) :
    (t.err = 0#8 → t.mode = .dec) ∧ (t.err ≠ 0#8 → t.mode = .idle) := by
  rcases hdrDecode_cases h with ⟨e, -, rfl⟩ | ⟨hd, -, rfl⟩ <;> simp [ErrCode.toByte_ne_zero]

theorem execAttrEnc_mode {s t : State} (h : execAttrEnc s = .next t) :
    t.mode = s.mode ∧ (t.err = 0#8 → s.mode = .enc) := by
  rcases execAttrEnc_cases h with ⟨e, -, rfl⟩ | ⟨hmode, -, -, -, rfl⟩
  · simp [ErrCode.toByte_ne_zero]
  · exact ⟨rfl, fun _ => hmode⟩

/-- ATTR_DEC: a Refusal is E_SEQ (code 8), a ParseError has a code below 8 (R260). -/
theorem attrDecode_mode {ty : Half} {k : Kind} {s t : State} (h : attrDecode ty k (valueDecoder k) s = .next t) :
    (t.err = 0#8 → s.mode = .dec ∧ t.mode = .dec) ∧
    (t.err ≠ 0#8 → t.err.toNat < 8 → s.mode = .dec ∧ t.mode = .idle) ∧ (8 ≤ t.err.toNat → t.mode = s.mode) := by
  rcases attrDecode_cases h with ⟨-, rfl⟩ | ⟨hmode, -, -, ⟨e, he, rfl⟩ | ⟨-, rfl⟩⟩
  · simp [ErrCode.toByte]
  · have hlt : e.toByte.toNat < 8 := toByte_of_parseError (by rcases decodeAttrAs_err he with h | h | h <;> simp [h])
    simp [hmode, ErrCode.toByte_ne_zero, hlt]
  · simp [hmode]

theorem execMsgEnd_mode {s t : State} (h : execMsgEnd s = .next t) :
    (t.err = 0#8 → s.mode ≠ .idle ∧ t.mode = .idle) ∧ (t.err ≠ 0#8 → t.mode = s.mode) := by
  rcases execMsgEnd_cases h with ⟨rfl, -⟩ | ⟨rfl, hmode⟩ | ⟨rfl, hmode⟩
  · simp [ErrCode.toByte_ne_zero]
  · simp [hmode]
  · simp [hmode]

theorem execCrcRun_mode {s t : State} (h : execCrcRun s = .next t) : t.mode = s.mode := by
  rcases execCrcRun_cases h with rfl | rfl <;> rfl

/-- R110: the codes outside the transition table are NOP, CLR_ERR, CRC_RUN and the undefined ones. -/
theorem decodeCmd_of_no_transition {op : Byte} (h : op ∉ [0x01#8, 0x10#8, 0x11#8, 0x12#8, 0x20#8, 0x21#8, 0x03#8]) :
    decodeCmd op = .nop ∨ decodeCmd op = .clrErr ∨ decodeCmd op = .crcRun ∨ decodeCmd op = .cmdUndefined op := by
  rcases lookup_getD_cases commandRows op (.cmdUndefined op) with hrow | ⟨-, hdefault⟩
  · rw [← decodeCmd] at hrow
    simp only [commandRows, List.mem_cons, Prod.mk.injEq, List.not_mem_nil, or_false] at hrow h
    tauto
  · exact .inr (.inr (.inr hdefault))

/-- A command outside the transition table leaves MODE. -/
theorem exec_keeps_mode {op : Byte} {s t : State}
    (h : op ∉ [0x01#8, 0x10#8, 0x11#8, 0x12#8, 0x20#8, 0x21#8, 0x03#8]) (hx : exec (decodeCmd op) s = .next t) :
    t.mode = s.mode := by
  rcases decodeCmd_of_no_transition h with hi | hi | hi | hi <;> rw [hi] at hx
  · cases hx; rfl
  · cases hx; rfl
  · exact execCrcRun_mode hx
  · cases hx; rfl

/-- Settles O17: command by command, by how each can end. -/
theorem modeTransitions : Obligations.ModeTransitions := by
  refine ⟨fun op s t hx => ⟨?reset, ?build, ?enc, ?dec, ?attrEnc, ?attrDec, ?msgEnd, fun h => exec_keeps_mode h hx⟩,
    fun s t rest hx => ?hardware⟩
  case reset => rintro rfl; cases hx; rfl
  case build => rintro rfl; exact execHdrBuild_mode hx
  case enc => rintro rfl; exact execHdrEnc_mode hx
  case dec => rintro rfl; exact hdrDecode_mode hx
  case attrEnc => rintro rfl; exact execAttrEnc_mode hx
  case attrDec => rintro rfl; exact attrDecode_mode hx
  case msgEnd => rintro rfl; exact execMsgEnd_mode hx
  case hardware => cases hx; rfl

end Sys2Proof.Machine

/-! PROOF. The header codec family (41_header_codec.md): class and method under the masks, the 20 bytes of an encoded
header read from any space, HDR_BUILD and HDR_ENC of legal operands, and a header decode by its checks. -/

namespace Sys2Proof.Machine

/-! ## Class and method in one word (R88 to R91, R149) -/

theorem mem_sets_iff (c m : Half) : c ∈ Config.classSet ∧ m ∈ Config.methodSet ↔ LegalHeader c m := by
  simp [Config.classSet, Config.methodSet, LegalHeader]

/-- R90: the accepted message types are the recognised methods with the recognised classes. -/
theorem acceptedType_iff_exists_or (mt : Half) :
    AcceptedType mt ↔ ∃ c ∈ Config.classSet, ∃ m ∈ Config.methodSet, mt = m ||| c := by
  simp [Config.classSet, Config.methodSet, AcceptedType]

theorem acceptedType_or {c m : Half} (h : LegalHeader c m) : AcceptedType (m ||| c) := by
  obtain ⟨hc, hm⟩ := (mem_sets_iff c m).mpr h
  exact (acceptedType_iff_exists_or _).mpr ⟨c, hc, m, hm, rfl⟩

/-- R89, R90: the method bits of an accepted message type are Binding's. -/
theorem AcceptedType.and_methodMask {mt : Half} (h : AcceptedType mt) : mt &&& methodMask = bindingPattern := by
  rcases h with rfl | rfl | rfl | rfl <;> decide

/-- A class pattern has no method bit. -/
theorem and_methodMask_of_mem_classSet : ∀ c ∈ Config.classSet, c &&& methodMask = 0#16 := by
  simp [Config.classSet, methodMask]

/-- R91: the parts of a class and a method put together. -/
theorem parts_of_or {c m : Half} (hc : c ∈ Config.classSet) (hm : m &&& classMask = 0#16) :
    (m ||| c) &&& classMask = c ∧ (m ||| c) &&& methodMask = m :=
  ⟨or_and_classMask hm (and_methodMask_of_mem_classSet c hc), or_and_methodMask hm (and_methodMask_of_mem_classSet c hc)⟩

/-- R88: the class row of a word whose class and method bits are known. -/
theorem decodeClass_of_parts {mt c m : Half} (hc : mt &&& classMask = c) (hm : mt &&& methodMask = m) :
    decodeClass mt =
      if c = 0x0000#16 then .classRequest m else if c = 0x0010#16 then .classIndication m
      else if c = 0x0100#16 then .classSuccessResponse m else .classErrorResponse m := by
  rw [decodeClass, hc, hm]

/-- R89: the method row of a word with Binding's method bits. -/
theorem decodeMethod_of_parts {mt c : Half} (hc : mt &&& classMask = c) (hm : mt &&& methodMask = bindingPattern) :
    decodeMethod mt = .ok (.methodBinding c) := by
  rw [decodeMethod, if_pos hm, hc]

/-- A header that passed holds the class and the method bits of its message type (R141). -/
theorem class_method_of_decodeHeaderAs {mt : Half} {B : Space} {n : Nat} {tidchk : Bool} {exp : Tid} {h : Header}
    (hok : decodeHeaderAs mt B n tidchk exp = .ok h) : h.cls = mt &&& classMask ∧ h.method = mt &&& methodMask := by
  obtain ⟨-, -, -, -, -, -, rfl⟩ := decodeHeaderAs_eq_ok.mp hok
  exact ⟨rfl, rfl⟩

/-! ## An encoded header in front of any bytes (R135) -/

theorem fields_of_overlay_encodeHeader (c m len : Half) (tid : Tid) (rest : Space) :
    let S := overlay (encodeHeader c m len tid) rest
    read16 S 0 = m ||| c ∧ read16 S 2 = len ∧ read32 S 4 = cookie ∧ readTid S 8 = tid :=
  fields_of_encodeHeader c m len tid _ fun a ha => overlay_of_lt _ rest a (by simpa using ha)

theorem messageType_of_encodeHeader (c m len : Half) (tid : Tid) (rest : Space) :
    read16 (overlay (encodeHeader c m len tid) rest) 0 = m ||| c :=
  (fields_of_overlay_encodeHeader c m len tid rest).1

/-- Settles O4: the class bits and the method bits lie under disjoint masks, so each mask takes its part of the OR. -/
theorem masksSeparateClassAndMethod : Obligations.MasksSeparateClassAndMethod := by
  refine ⟨mem_sets_iff, acceptedType_iff_exists_or, fun c m hc hm len tid rest mt hmt => ?_⟩
  rw [messageType_of_encodeHeader] at hmt
  subst hmt
  obtain ⟨hcls, hmeth⟩ := parts_of_or hc hm
  refine ⟨rfl, hcls, hmeth, ?request, ?indication, ?success, ?error, ?method, ?header, ?unique⟩
  case request => rintro rfl; exact decodeClass_of_parts hcls hmeth
  case indication => rintro rfl; exact decodeClass_of_parts hcls hmeth
  case success => rintro rfl; exact decodeClass_of_parts hcls hmeth
  case error => rintro rfl; exact decodeClass_of_parts hcls hmeth
  case method => rintro rfl; exact decodeMethod_of_parts hcls hmeth
  case header =>
    intro B n tidchk exp h hok
    obtain ⟨h1, h2⟩ := class_method_of_decodeHeaderAs hok
    exact ⟨h1.trans hcls, h2.trans hmeth⟩
  case unique =>
    intro c' m' hc' hm' len' tid' rest' heq
    rw [messageType_of_encodeHeader] at heq
    obtain ⟨hcls', hmeth'⟩ := parts_of_or hc' hm'
    rw [heq] at hcls' hmeth'
    exact ⟨hcls'.symm.trans hcls, hmeth'.symm.trans hmeth⟩

/-- Settles O29: the fields of the encoded header pass every check of R141, and the masks give class and method back. -/
theorem headerRoundTrip : Obligations.HeaderRoundTrip := by
  intro c m len tid any rest hlegal hal hfit
  obtain ⟨hmt, hlen, hcookie, htid⟩ := fields_of_overlay_encodeHeader c m len tid rest
  obtain ⟨hlead, hrecognised⟩ := (acceptedType_iff (m ||| c)).mpr (acceptedType_or hlegal)
  have hm : m &&& classMask = 0#16 := by rw [hlegal.2]; decide
  obtain ⟨hcls, hmeth⟩ := parts_of_or ((mem_sets_iff c m).mpr hlegal).1 hm
  rw [decodeHeader, hmt, decodeHeaderAs_eq_ok]
  refine ⟨⟨by omega, hfit⟩, hlead, hcookie, hrecognised, ?_, nofun, ?_⟩
  · rw [hlen]; exact ⟨hal, rfl⟩
  · rw [hlen, htid, hcls, hmeth]

/-! ## HDR_BUILD and HDR_ENC (R131 to R136) -/

/-- A register outside a list that ends with H_TID is no byte of H_TID. -/
theorem ne_hTid_of_not_mem {regs : List Reg} {r : Reg} (h : r ∉ regs ++ List.ofFn Reg.hTid) (i : Fin 12) :
    r ≠ .hTid i := by
  rintro rfl
  exact h (List.mem_append_right _ (List.mem_ofFn.mpr ⟨i, rfl⟩))

/-- The state HDR_BUILD prepares (R132): the identifier drawn where TIDGEN asks for it. -/
def afterHdrBuild (s : State) : State :=
  { s with
    hTid := if s.tidgen then tidOfBits (Config.rnd s.draws) else s.hTid
    draws := if s.tidgen then s.draws + 1 else s.draws
    hLen := 0
    mode := .idle }

/-- The state HDR_ENC prepares (R136). -/
def afterHdrEnc (s : State) : State :=
  { s with
    hLen := 0
    mb := Memory.setBytes s.mb 0 (encodeHeader s.hClass s.hMethod 0 s.hTid)
    cur := 20
    txLen := 0
    mode := .enc }

theorem exec_hdrBuild_legal {s : State} (h : LegalHeader s.hClass s.hMethod) :
    exec .hdrBuild s = .next (afterHdrBuild s).succeed := by
  simp only [exec, execHdrBuild, (hdrOperandsOk_iff s).mpr h, afterHdrBuild]
  cases s.tidgen <;> rfl

theorem exec_hdrBuild_illegal {s : State} (h : ¬ LegalHeader s.hClass s.hMethod) :
    exec .hdrBuild s = .next (s.refusal opHdrBuild .operand) := by
  rw [← hdrOperandsOk_iff, Bool.not_eq_true] at h
  simp only [exec, execHdrBuild, h]
  rfl

theorem exec_hdrEnc_legal {s : State} (h : LegalHeader s.hClass s.hMethod) :
    exec .hdrEnc s = .next (afterHdrEnc s).succeed := by
  simp only [exec, execHdrEnc, (hdrOperandsOk_iff s).mpr h]
  rfl

theorem exec_hdrEnc_illegal {s : State} (h : ¬ LegalHeader s.hClass s.hMethod) :
    exec .hdrEnc s = .next (s.refusal opHdrEnc .operand) := by
  rw [← hdrOperandsOk_iff, Bool.not_eq_true] at h
  simp only [exec, execHdrEnc, h]
  rfl

theorem afterHdrBuild_keepsRegs (s : State) :
    KeepsRegs ([.status, .hLen] ++ List.ofFn Reg.hTid) s (afterHdrBuild s).succeed := by
  intro r hr
  have hlisted : r ∉ [Reg.status, .hLen] := fun h => hr (List.mem_append_left _ h)
  cases r with
  | hTid i => exact absurd rfl (ne_hTid_of_not_mem hr i)
  | status => simp at hlisted
  | hLen => simp at hlisted
  | _ => rfl

theorem afterHdrEnc_keepsRegs (s : State) :
    KeepsRegs [.status, .hLen, .cur, .txLen] s (afterHdrEnc s).succeed := by
  intro r hr
  cases r with
  | status => simp at hr
  | hLen => simp at hr
  | cur => simp at hr
  | txLen => simp at hr
  | _ => rfl

/-- MB after HDR_ENC: the header bytes in front, every other byte as before. -/
theorem afterHdrEnc_mbSpace (s : State) (a : Nat) :
    (afterHdrEnc s).mbSpace a =
      if h : a < 20 then (encodeHeader s.hClass s.hMethod 0 s.hTid)[a]'(by simpa using h) else s.mbSpace a := by
  have h := mbSpace_setBytes s 0 (encodeHeader s.hClass s.hMethod 0 s.hTid) a
  simp only [length_encodeHeader, Nat.zero_le, true_and, Nat.zero_add, Nat.sub_zero] at h
  exact h

theorem fields_afterHdrEnc (s : State) :
    let S := (afterHdrEnc s).mbSpace
    read16 S 0 = s.hMethod ||| s.hClass ∧ read16 S 2 = 0 ∧ read32 S 4 = cookie ∧ readTid S 8 = s.hTid :=
  fields_of_encodeHeader _ _ _ _ _ fun a ha => by rw [afterHdrEnc_mbSpace, dif_pos ha]

/-- Settles O24: by whether the operands are legal; H_TID and the counter of draws by TIDGEN. -/
theorem hdrBuildPreparesAHeader : Obligations.HdrBuildPreparesAHeader := by
  refine fun s => ⟨fun h => ?_, fun h => ⟨_, exec_hdrBuild_illegal h, refusal_refused _ _ _⟩⟩
  refine ⟨_, exec_hdrBuild_legal h, ⟨rfl, rfl⟩, rfl, rfl, ⟨fun _ => rfl, fun _ => rfl⟩, rfl, rfl, rfl,
    afterHdrBuild_keepsRegs s, fun hgen => ?kept, fun hgen => ?drawn⟩
  case kept =>
    have hg : s.tidgen = false := hgen
    simp [afterHdrBuild, hg]
  case drawn =>
    have hg : s.tidgen = true := hgen
    simp [afterHdrBuild, hg, toNat_get_tidOfBits]

/-- Settles O25: by whether the operands are legal; the header's fields by the bytes HDR_ENC stored. -/
theorem hdrEncWritesTheHeader : Obligations.HdrEncWritesTheHeader := by
  refine fun s => ⟨fun h => ?_, fun h => ⟨_, exec_hdrEnc_illegal h, refusal_refused _ _ _⟩⟩
  obtain ⟨htype, hlen, hcookie, htid⟩ := fields_afterHdrEnc s
  refine ⟨_, exec_hdrEnc_legal h, ⟨rfl, rfl⟩, rfl, htype, hlen, (cookieOk_iff _).mp hcookie, fun i => ?tid, rfl, rfl,
    rfl, afterHdrEnc_keepsRegs s, fun a ha => ?outside, fun _ => rfl, rfl, rfl, rfl, rfl⟩
  case tid => rw [← htid]; exact (get_readTid _ _ i).symm
  case outside => rw [State.succeed_mbSpace, afterHdrEnc_mbSpace, dif_neg (by omega)]

/-! ## A header decode by its checks (R140 to R148) -/

/-- Settles O7: each command is the decode of the word in MB, and so is the instruction the decoder reads there. -/
theorem decodeCommandsRunTheReceivedWord : Obligations.DecodeCommandsRunTheReceivedWord := by
  refine fun s i rest => ⟨fun h => ?_, fun h => ?_⟩
  · obtain rfl : decodeMsgType (halfOfBytes (s.mbSpace 0) (s.mbSpace 1)) = i := congrArg Prod.fst (Except.ok.inj h)
    rw [exec_decodeMsgType, ← read16_eq_halfOfBytes s.mbSpace 0]
    rfl
  · obtain rfl : decodeAttrType (halfOfBytes (s.mbSpace s.cur.toNat) (s.mbSpace (s.cur.toNat + 1))) = i :=
      congrArg Prod.fst (Except.ok.inj h)
    rw [exec_decodeAttrType, ← read16_eq_halfOfBytes]
    rfl

/-- A header decode whose checks answer an error ends with that error (R148). -/
theorem headerFailed_of_error {mt : Half} {s t : State} {e : ErrCode} (hx : hdrDecode mt s = .next t)
    (he : decodeHeaderAs mt s.mbSpace s.rxLen.toNat s.tidchk s.expTid = .error e) : HeaderFailed e s t := by
  rw [hdrDecode_of_error mt s e he] at hx
  cases hx
  exact parseError_headerFailed e s

/-- A header decode that failed leaves no attribute to decode (R148, R172). -/
theorem attrDec_refused_of_headerError {mt : Half} {s t : State} (hx : hdrDecode mt s = .next t) (he : t.err ≠ 0#8) :
    ∃ u, exec .attrDec t = .next u ∧ Refused 0x21#8 .seq t u := by
  have hidle : t.mode = .idle := (hdrDecode_mode hx).2 he
  exact ⟨_, attrDecode_refused _ _ _ t (.inl (by simp [hidle])), refusal_refused _ _ _⟩

/-- Settles O26: one clause per check, each with the checks before it passed. -/
theorem hdrDecCommitsOrFailsByItsFirstFailingCheck : Obligations.HdrDecCommitsOrFailsByItsFirstFailingCheck := by
  intro s
  obtain ⟨t, ht⟩ := hdrDecode_next (read16 s.mbSpace 0) s
  refine ⟨t, ht, ?commits, ?count, ?leadBits, ?cookie, ?type, ?length, ?tid, attrDec_refused_of_headerError ht⟩
  case commits =>
    intro hcount hacc hcookie hlen htid
    obtain ⟨t', ht', hcommit⟩ := hdrDecode_committed _ s hcount hacc hcookie hlen htid
    cases ht.symm.trans ht'
    exact hcommit
  case count => exact fun hcount => headerFailed_of_error ht (decodeHeaderAs_count _ s hcount)
  case leadBits =>
    intro hcount hbyte
    exact headerFailed_of_error ht
      (decodeHeaderAs_leadBits _ s hcount (mt (leadingBits_iff s).mp (Nat.not_lt.mpr hbyte)))
  case cookie =>
    intro hcount hbyte hcookie
    exact headerFailed_of_error ht (decodeHeaderAs_cookie _ s hcount ((leadingBits_iff s).mpr hbyte) hcookie)
  case type =>
    intro hcount hbyte hcookie hmethod
    exact headerFailed_of_error ht (decodeHeaderAs_type _ s hcount ((leadingBits_iff s).mpr hbyte) hcookie
      fun hacc => hmethod hacc.and_methodMask)
  case length =>
    intro hcount hacc hcookie hlen
    exact headerFailed_of_error ht (decodeHeaderAs_length _ s hcount hacc hcookie hlen)
  case tid =>
    intro hcount hacc hcookie hlen htid
    exact headerFailed_of_error ht (decodeHeaderAs_tid _ s hcount hacc hcookie hlen htid)

/-- Settles O27: every reading is the header decode of the word, whose checks all pass. -/
theorem acceptedMessageTypesCommit : Obligations.AcceptedMessageTypesCommit := by
  intro mt i s hacc hreads hcount hcookie hlen htid
  rw [exec_of_readsAs hreads]
  exact hdrDecode_committed mt s hcount hacc hcookie hlen htid

/-- Settles O28: every reading is the header decode of the word, which fails by the first of leading bits, cookie and
type. -/
theorem otherMessageTypesFail : Obligations.OtherMessageTypesFail := by
  intro mt i s hacc hreads hcount
  rw [exec_of_readsAs hreads]
  obtain ⟨t, ht⟩ := hdrDecode_next mt s
  refine ⟨t, ht, fun hlead => ?_, fun hlead hcookie => ?_, fun hlead hcookie => ?_⟩
  · exact headerFailed_of_error ht (decodeHeaderAs_leadBits mt s hcount hlead)
  · exact headerFailed_of_error ht (decodeHeaderAs_cookie mt s hcount hlead hcookie)
  · exact headerFailed_of_error ht (decodeHeaderAs_type mt s hcount hlead hcookie hacc)

end Sys2Proof.Machine

/-! PROOF. The attribute codec family, encode side (42_attribute_codec.md R161 to R170): the refusals of ATTR_ENC, what it
appends variant by variant, and the length field of a message being built. -/

namespace Sys2Proof.Machine

/-! ## The refusals of ATTR_ENC (R165) -/

theorem exec_attrEnc_seq {s : State} (hmode : s.mode ≠ .enc) :
    exec .attrEnc s = .next (s.refusal opAttrEnc .seq) := by
  simp only [exec, execAttrEnc]
  rw [if_pos hmode]
  rfl

theorem exec_attrEnc_generic {s : State} (hmode : s.mode = .enc) (hk : kindOf s.attr.typ = .generic) :
    exec .attrEnc s = .next (s.refusal opAttrEnc .unsupp) := by
  simp only [exec, execAttrEnc]
  rw [if_neg (not_not.mpr hmode), if_pos hk]
  rfl

theorem kindOf_ne_generic_of_address {t : Half} (h : t = 0x0001#16 ∨ t = 0x0020#16) : kindOf t ≠ .generic := by
  rcases kindOf_address_iff.mpr h with hk | hk <;> simp [hk]

theorem exec_attrEnc_family {s : State} (hmode : s.mode = .enc)
    (haddr : s.attr.typ = 0x0001#16 ∨ s.attr.typ = 0x0020#16) (hfam : s.attr.family ≠ 1#8) :
    exec .attrEnc s = .next (s.refusal opAttrEnc .unsupp) := by
  simp only [exec, execAttrEnc]
  rw [if_neg (not_not.mpr hmode), if_neg (kindOf_ne_generic_of_address haddr),
    if_pos ⟨kindOf_address_iff.mpr haddr, hfam⟩]
  rfl

theorem exec_attrEnc_overflow {s : State} (hmode : s.mode = .enc) (hk : kindOf s.attr.typ ≠ .generic)
    (hfam : s.attr.typ = 0x0001#16 ∨ s.attr.typ = 0x0020#16 → s.attr.family = 1#8)
    (hbig : Config.mbSize < s.cur.toNat + wireSize (valueLength (kindOf s.attr.typ) s.attr)) :
    exec .attrEnc s = .next (s.refusal opAttrEnc .overflow) := by
  simp only [exec, execAttrEnc]
  rw [if_neg (not_not.mpr hmode), if_neg hk, if_neg fun h => h.2 (hfam (kindOf_address_iff.mp h.1)), if_pos hbig]
  rfl

/-- Settles O30: each test with the tests before it passed; a Refusal records its code and changes nothing else. -/
theorem attrEncRefusesInOrder : Obligations.AttrEncRefusesInOrder := by
  refine fun s => ⟨fun hmode => ?_, fun hmode hk => ?_, fun hmode haddr hfam => ?_, fun hmode hk hfam hbig => ?_⟩
  · exact ⟨_, exec_attrEnc_seq hmode, refusal_refused _ _ _⟩
  · exact ⟨_, exec_attrEnc_generic hmode hk, refusal_refused _ _ _⟩
  · exact ⟨_, exec_attrEnc_family hmode haddr hfam, refusal_refused _ _ _⟩
  · rw [Nat.add_assoc] at hbig
    exact ⟨_, exec_attrEnc_overflow hmode hk hfam hbig, refusal_refused _ _ _⟩

/-! ## What ATTR_ENC appends (R164 to R169) -/

/-- The value length of an attribute with room fits the length field (R163). -/
theorem valueLength_lt_of_room {k : Kind} {s : State} {n : Nat} (hn : wireSize (valueLength k s.attr) = n)
    (hcur : 20 ≤ s.cur.toNat) (hroom : s.cur.toNat + n ≤ Config.mbSize) : valueLength k s.attr < 65536 := by
  unfold wireSize padded at hn
  rw [mbSize_eq] at hroom
  omega

/-- Below the cursor an appended attribute changes nothing but the length field. -/
theorem appendAttr_mbSpace_below {k : Kind} {s : State} {a : Nat} (ha : a < s.cur.toNat) :
    (appendAttr k s).mbSpace a = (lengthened k s).mbSpace a := by
  rw [appendAttr_mbSpace, dif_neg (by omega)]

/-- ATTR_ENC of an attribute of `n` on-wire bytes that has room, whatever the variant: `r` is the record and `v` the
value bytes of R166 to R169; type, length and value stand at CUR and zeros pad them (R96, R97). -/
theorem exec_attrEnc_of_room {s : State} {k : Kind} {n : Nat} {r : AttrRecord} {v : List Byte} (hmode : s.mode = .enc)
    (hk : kindOf s.attr.typ = k) (hdef : k ≠ .generic)
    (hfam : s.attr.typ = 0x0001#16 ∨ s.attr.typ = 0x0020#16 → s.attr.family = 1#8) (hcur : 20 ≤ s.cur.toNat)
    (hn : wireSize (valueLength k s.attr) = n) (hroom : s.cur.toNat + n ≤ Config.mbSize)
    (hv : encodeValue k (lengthened k s).mbSpace s.vbSpace s.cur.toNat (valueLength k s.attr) (startRecord k s) =
      (r, v)) :
    ∃ t, exec .attrEnc s = .next t ∧ Appended n s t ∧ t.attr = r ∧ t.mbSpace = (appendAttr k s).mbSpace ∧
      read16 t.mbSpace s.cur.toNat = s.attr.typ ∧
      read16 t.mbSpace (s.cur.toNat + 2) = BitVec.ofNat 16 (valueLength k s.attr) ∧
      (∀ i, (hi : i < v.length) → t.mbSpace (s.cur.toNat + 4 + i) = v[i]) ∧
      (∀ i, v.length ≤ i → i < v.length + pad (valueLength k s.attr) → t.mbSpace (s.cur.toNat + 4 + i) = 0#8) := by
  have hl := valueLength_lt_of_room hn hcur hroom
  subst hk hn
  have hf := appendAttr_fields _ s hl
  rw [hv] at hf
  exact ⟨_, exec_attrEnc_appends s hmode hdef hfam hcur hroom, appendAttr_appended _ s hmode hdef hcur hroom,
    (appendAttr_attr _ s).trans (congrArg Prod.fst hv), rfl, hf⟩

/-- Settles O31: the value bytes are 00 01, port and address. -/
theorem attrEncMappedAddress : Obligations.AttrEncMappedAddress := by
  intro s hmode htyp hfam hcur hroom
  obtain ⟨t, hx, happ, hattr, -, ht, hl, hvalue, -⟩ := exec_attrEnc_of_room (k := .mapped) hmode (htyp ▸ kindOf_1)
    (by decide) (fun _ => hfam) hcur wireSize_8 hroom rfl
  obtain ⟨hzero, hone, hport, haddr⟩ := fields_of_addressValue t.mbSpace s.cur.toNat s.attr.port s.attr.addr hvalue
  exact ⟨t, hx, happ, ht.trans htyp, hl, hzero, hone, hport, haddr, by simp [hattr, startRecord, valueLength]⟩

/-- Settles O32: as for a MappedAddress, with the fields XORed with the cookie on the wire and in the record. -/
theorem attrEncXorMappedAddress : Obligations.AttrEncXorMappedAddress := by
  intro s hmode htyp hfam hcur hroom
  obtain ⟨t, hx, happ, hattr, -, ht, hl, hvalue, -⟩ := exec_attrEnc_of_room (k := .xorMapped) hmode (htyp ▸ kindOf_20)
    (by decide) (fun _ => hfam) hcur wireSize_8 hroom rfl
  obtain ⟨hzero, hone, hport, haddr⟩ := fields_of_addressValue t.mbSpace s.cur.toNat (s.attr.port ^^^ cookieHi16)
    (s.attr.addr ^^^ cookie) hvalue
  exact ⟨t, hx, happ, ht.trans htyp, hl, hzero, hone, hport, haddr,
    by simp [hattr, startRecord, valueLength, cookieHi16, cookie]⟩

/-- Settles O33: the value bytes are the first A_LEN bytes of VB. -/
theorem attrEncSoftware : Obligations.AttrEncSoftware := by
  intro s hmode htyp hcur hroom
  have haddr : ¬ (s.attr.typ = 0x0001#16 ∨ s.attr.typ = 0x0020#16) := by rw [htyp]; decide
  obtain ⟨t, hx, happ, hattr, -, ht, hl, hvalue, hpad⟩ := exec_attrEnc_of_room (k := .software) hmode
    (htyp ▸ kindOf_8022) (by decide) (fun h => absurd h haddr) hcur rfl (by rwa [Nat.add_assoc] at hroom) rfl
  simp only [length_slice, getElem_slice, Nat.zero_add] at hvalue hpad
  refine ⟨t, hx, happ, ht.trans htyp, by simpa [valueLength] using hl, hvalue, hpad, ?_⟩
  simp [hattr, startRecord, valueLength]

/-- The Fingerprint ATTR_ENC computes is that of MB as it leaves it: the record lies behind the bytes summed, and the
length is rewritten before (R169). -/
theorem fingerprintAt_lengthened (k : Kind) (s : State) :
    fingerprintAt (lengthened k s).mbSpace s.cur.toNat = fingerprintAt (appendAttr k s).mbSpace s.cur.toNat := by
  rw [fingerprintAt, crc32_congr _ _ fun x _ hx => (appendAttr_mbSpace_below hx).symm]
  rfl

/-- Settles O34: the value is the Fingerprint of the bytes before CUR, whose length field ATTR_ENC has rewritten. -/
theorem attrEncFingerprint : Obligations.AttrEncFingerprint := by
  intro s hmode htyp hcur hroom
  have haddr : ¬ (s.attr.typ = 0x0001#16 ∨ s.attr.typ = 0x0020#16) := by rw [htyp]; decide
  obtain ⟨t, hx, happ, hattr, hmb, ht, hl, hvalue, -⟩ := exec_attrEnc_of_room (k := .fingerprint) hmode
    (htyp ▸ kindOf_8028) (by decide) (fun h => absurd h haddr) hcur wireSize_4 hroom rfl
  have hfp : t.attr.fp = fingerprintAt t.mbSpace s.cur.toNat := by
    rw [hattr, hmb, ← fingerprintAt_lengthened]
  have hread : read32 t.mbSpace (s.cur.toNat + 4) = t.attr.fp := by
    rw [hattr]
    exact read32_of_beBytes fun i hi => hvalue i (by simpa using hi)
  exact ⟨t, hx, happ, ht.trans htyp, hl, hfp, hread, by simp [hattr, startRecord, valueLength]⟩

/-! ## The length field of the message being built (R164, R190) -/

/-- R190: in ENC mode MB[2..3] holds H_LEN. -/
def LengthFieldOk (s : State) : Prop := s.mode = .enc → read16 s.mbSpace 2 = s.hLen

theorem lengthFieldOk_of_ne_enc {t : State} (h : t.mode ≠ .enc) : LengthFieldOk t := fun he => absurd he h

/-- What leaves MODE, H_LEN and MB[2..3] keeps it. -/
theorem LengthFieldOk.congr {s t : State} (h : LengthFieldOk s) (hmode : t.mode = s.mode) (hlen : t.hLen = s.hLen)
    (h2 : t.mbSpace 2 = s.mbSpace 2) (h3 : t.mbSpace 3 = s.mbSpace 3) : LengthFieldOk t := by
  intro he
  rw [hlen, ← h (hmode ▸ he)]
  refine read16_congr fun i hi => ?_
  rcases (by omega : i = 0 ∨ i = 1) with rfl | rfl
  · exact h2
  · exact h3

/-- HDR_ENC writes a header of length 0 and puts H_LEN to 0; ATTR_ENC rewrites both; no other command leaves ENC mode
on with another H_LEN or another MB[2..3]. -/
theorem exec_keeps_lengthFieldOk {i : Instr} {s t : State} (h : LengthFieldOk s) (hx : exec i s = .next t) :
    LengthFieldOk t := by
  rcases instr_cases_any i s with
    rfl | rfl | rfl | rfl | rfl | rfl | rfl | rfl | ⟨op, rfl⟩ | ⟨-, mt, he⟩ | ⟨-, ty, k, he⟩
  · cases hx; exact h.congr rfl rfl rfl rfl
  · cases hx; exact lengthFieldOk_of_ne_enc (by simp [State.reset])
  · cases hx; exact h.congr rfl rfl rfl rfl
  · rcases execMsgEnd_cases hx with ⟨rfl, -⟩ | ⟨rfl, -⟩ | ⟨rfl, -⟩
    · exact h.congr rfl rfl rfl rfl
    · exact lengthFieldOk_of_ne_enc (by simp)
    · exact lengthFieldOk_of_ne_enc (by simp)
  · rcases execHdrBuild_cases hx with rfl | ⟨rfl, -⟩ | rfl
    · exact h.congr rfl rfl rfl rfl
    · exact lengthFieldOk_of_ne_enc (by simp)
    · exact lengthFieldOk_of_ne_enc (by simp)
  · rcases execHdrEnc_cases hx with rfl | rfl
    · exact h.congr rfl rfl rfl rfl
    · exact fun _ => (fields_afterHdrEnc s).2.1
  · rcases execAttrEnc_cases hx with ⟨e, -, rfl⟩ | ⟨hmode, hk, hlo, hfit, rfl⟩
    · exact h.congr rfl rfl rfl rfl
    · obtain ⟨-, -, -, -, hlen, -⟩ := appendAttr_appended _ s hmode hk hlo hfit
      exact fun _ => hlen
  · rcases execCrcRun_cases hx with rfl | rfl <;> exact h.congr rfl rfl rfl rfl
  · cases hx; exact h.congr rfl rfl rfl rfl
  · rcases hdrDecode_cases (he ▸ hx) with ⟨e, -, rfl⟩ | ⟨hd, -, rfl⟩ <;> exact lengthFieldOk_of_ne_enc (by simp)
  · rcases attrDecode_cases (he ▸ hx) with ⟨-, rfl⟩ | ⟨-, -, -, ⟨e, -, rfl⟩ | ⟨-, rfl⟩⟩
    · exact h.congr rfl rfl rfl rfl
    · exact lengthFieldOk_of_ne_enc (by simp)
    · exact h.congr rfl rfl rfl rfl

/-- MB after `WB`, at another offset (R243). -/
theorem writeMb_mbSpace_ne {off : Offset} {a : Nat} (ha : off.toNat ≠ a) (b : Byte) (s : State) :
    (writeMb off b s).mbSpace a = s.mbSpace a := by
  unfold writeMb
  split
  · simp [State.mbSpace, Memory.get?_set, Ne.symm ha]
  · rfl

theorem writeMb_keeps_lengthFieldOk {off : Offset} {b : Byte} {s : State} (h : LengthFieldOk s) (h2 : off.toNat ≠ 2)
    (h3 : off.toNat ≠ 3) : LengthFieldOk (writeMb off b s) := by
  refine h.congr ?_ ?_ (writeMb_mbSpace_ne h2 b s) (writeMb_mbSpace_ne h3 b s) <;> unfold writeMb <;> split <;> rfl

theorem writeVb_keeps_lengthFieldOk {off : Offset} {b : Byte} {s : State} (h : LengthFieldOk s) :
    LengthFieldOk (writeVb off b s) := by
  unfold writeVb
  split <;> exact h.congr rfl rfl rfl rfl

/-- H_LEN is read-only (R36), and no register write reaches MODE or MB. -/
theorem writeRegister_keeps_lengthFieldOk {n : Byte} {v : Word} {s : State} (h : LengthFieldOk s) :
    LengthFieldOk (writeRegister n v s) := by
  unfold writeRegister
  split
  · next r _ => cases r <;> exact h.congr rfl rfl rfl rfl
  · exact h

/-- Settles O14: by the event, and for a write to CMD by the command it runs. -/
theorem lengthFieldFollowsHLen : Obligations.LengthFieldFollowsHLen := by
  intro s t e rest hp hwb hs hx
  rw [step_of_port_cons hp] at hx
  have h : LengthFieldOk (takeEvent rest s) := hs
  cases e with
  | wr n v =>
    simp only [runEvent] at hx
    split at hx
    · exact exec_keeps_lengthFieldOk h hx
    · cases hx; exact writeRegister_keeps_lengthFieldOk h
  | rd n => cases hx; exact h
  | wb off b => cases hx; exact writeMb_keeps_lengthFieldOk h (hwb off b rfl).1 (hwb off b rfl).2
  | rb off => cases hx; exact h
  | wv off b => cases hx; exact writeVb_keeps_lengthFieldOk h
  | rv off => cases hx; exact h
  | hwReset => cases hx; exact lengthFieldOk_of_ne_enc (by simp [State.reset])

end Sys2Proof.Machine

/-! PROOF. The attribute codec family, decode side (42_attribute_codec.md R171 to R186): what each variant's value
decodes to, how ATTR_DEC ends by that, and the walk. -/

namespace Sys2Proof.Machine

/-! ## The value of each variant (R176 to R183) -/

/-- R180: an address value of fewer than 4 bytes. -/
theorem decodeAddress_short {xor : Bool} {pm : Half} {am : Word} {B : Space} {o l : Nat} (r : AttrRecord) (hl : l < 4) :
    decodeAddress xor pm am B o l r = { record := r, text := [], err := some .length } := by
  simp only [decodeAddress]
  rw [if_pos hl]

/-- R178: the reserved byte is tested before the family. -/
theorem decodeAddress_reserved {xor : Bool} {pm : Half} {am : Word} {B : Space} {o l : Nat} (r : AttrRecord)
    (hl : 4 ≤ l) (h0 : B (o + 4) ≠ 0#8) :
    decodeAddress xor pm am B o l r = { record := r, text := [], err := some .reserved } := by
  simp only [decodeAddress]
  rw [if_neg (Nat.not_lt.mpr hl), if_pos h0]

/-- The record once family and port are read (R176, R177, R179). -/
def withPort (xor : Bool) (pm : Half) (B : Space) (o : Nat) (r : AttrRecord) : AttrRecord :=
  { r with
    family := B (o + 5), port := read16 B (o + 6) ^^^ pm, xport := if xor then read16 B (o + 6) else 0 }

/-- The record once the address is read too. -/
def withAddress (xor : Bool) (pm : Half) (am : Word) (B : Space) (o : Nat) (r : AttrRecord) : AttrRecord :=
  { withPort xor pm B o r with
    addr := read32 B (o + 8) ^^^ am, xaddr := if xor then read32 B (o + 8) else 0, addrLen := 4 }

/-- R180: family 1 without room for the address. -/
theorem decodeAddress_ipv4_short {xor : Bool} {pm : Half} {am : Word} {B : Space} {o l : Nat} (r : AttrRecord)
    (hl : 4 ≤ l) (hl8 : l < 8) (h0 : B (o + 4) = 0#8) (h1 : B (o + 5) = 1#8) :
    decodeAddress xor pm am B o l r = { record := withPort xor pm B o r, text := [], err := some .length } := by
  simp only [decodeAddress]
  rw [if_neg (Nat.not_lt.mpr hl), if_neg (not_not.mpr h0), if_pos (show B (o + 4 + 1) = familyIPv4 from h1), if_pos hl8]
  rfl

/-- R176, R177. -/
theorem decodeAddress_ipv4 {xor : Bool} {pm : Half} {am : Word} {B : Space} {o l : Nat} (r : AttrRecord)
    (hl : 8 ≤ l) (h0 : B (o + 4) = 0#8) (h1 : B (o + 5) = 1#8) :
    decodeAddress xor pm am B o l r = { record := withAddress xor pm am B o r, text := [], err := none } := by
  simp only [decodeAddress]
  rw [if_neg (by omega), if_neg (not_not.mpr h0), if_pos (show B (o + 4 + 1) = familyIPv4 from h1),
    if_neg (Nat.not_lt.mpr hl)]
  rfl

/-- R179. -/
theorem decodeAddress_other {xor : Bool} {pm : Half} {am : Word} {B : Space} {o l : Nat} (r : AttrRecord)
    (hl : 4 ≤ l) (h0 : B (o + 4) = 0#8) (h1 : B (o + 5) ≠ 1#8) :
    decodeAddress xor pm am B o l r = { record := withPort xor pm B o r, text := [], err := none } := by
  simp only [decodeAddress]
  rw [if_neg (Nat.not_lt.mpr hl), if_neg (not_not.mpr h0), if_neg (show ¬ B (o + 4 + 1) = familyIPv4 from h1)]
  rfl

/-- R182: the value is read only where its length is 4. -/
theorem decodeFingerprint_length {B : Space} {o l : Nat} (r : AttrRecord) (hl : l ≠ 4) :
    decodeFingerprint B o l r = { record := r, text := [], err := some .length } := by
  simp only [decodeFingerprint]
  rw [if_pos hl]

/-- R182: the stored value is recorded whether it matches or not. -/
theorem decodeFingerprint_read {B : Space} {o : Nat} (r : AttrRecord) :
    decodeFingerprint B o 4 r =
      { record := { r with fp := read32 B (o + 4) }, text := []
        err := if fingerprintAt B o ≠ read32 B (o + 4) then some .fingerprint else none } := by
  simp only [decodeFingerprint]
  rw [if_neg (by simp)]

/-- A value that meets the conditions of its variant decodes (R176 to R183). -/
theorem valueDecoder_passes {t : Half} {s : State} (r : AttrRecord) (h : ValuePasses t s) :
    (valueDecoder (kindOf t) s.mbSpace s.cur.toNat (lengthAtCursor s) r).err = none := by
  obtain ⟨haddr, hfp⟩ := h
  have address : ∀ (xor : Bool) (pm : Half) (am : Word), t = 0x0001#16 ∨ t = 0x0020#16 →
      (decodeAddress xor pm am s.mbSpace s.cur.toNat (lengthAtCursor s) r).err = none := by
    intro xor pm am ht
    obtain ⟨hl, h0, hipv4⟩ := haddr ht
    by_cases h1 : s.mbSpace (s.cur.toNat + 5) = 1#8
    · rw [decodeAddress_ipv4 r (hipv4 h1) h0 h1]
    · rw [decodeAddress_other r hl h0 h1]
  by_cases hk : kindOf t = .generic
  · rw [hk]; rfl
  · rcases kindOf_cases hk with ⟨ht, hkt⟩ | ⟨ht, hkt⟩ | ⟨-, hkt⟩ | ⟨ht, hkt⟩ <;> rw [hkt]
    · exact address false 0 0 (.inl ht)
    · exact address true cookieHi16 cookie (.inr ht)
    · rfl
    · obtain ⟨hl, hcrc⟩ := hfp ht
      rw [valueDecoder, hl, decodeFingerprint_read]
      exact if_neg (not_not.mpr hcrc)

/-! ## ATTR_DEC by what the value decodes to (R173, R185) -/

/-- The record before the value is read: offsets, type, length and kind, every other field 0 (R171, R173). -/
def heads (t : Half) (k : Kind) (B : Space) (o : Nat) : AttrRecord :=
  { AttrRecord.zero with
    off := BitVec.ofNat 17 o, voff := BitVec.ofNat 17 (o + 4), typ := t, len := read16 B (o + 2), kind := k }

section Ends

variable {s : State} {t : Half} {k : Kind} {r : AttrRecord} {e : ErrCode} {text : List Byte}

/-- ATTR_DEC of an attribute of type `t` whose value decodes: `r` is the record, `text` what goes to VB. -/
theorem attrDec_walks (hp : AttrPresent s) (hf : Framed s) (ht : read16 s.mbSpace s.cur.toNat = t) (hk : kindOf t = k)
    (hv : valueDecoder k s.mbSpace s.cur.toNat (lengthAtCursor s) (heads t k s.mbSpace s.cur.toNat) =
      { record := r, text := text, err := none }) :
    ∃ u, exec .attrDec s = .next u ∧ Walked s u ∧ RecordHeads t s u ∧ u.attr = r ∧
      u.vb = Memory.setBytes s.vb 0 text ∧ u.epoch = s.epoch := by
  subst ht hk
  obtain ⟨u, hx, hw, hh, hattr, -, hvb, hepoch⟩ := attrDecode_walked hp hf _
    ((decodeAttrAs_framed ((framed_iff s).mp hf)).trans hv) rfl
  exact ⟨u, hx, hw, hh, hattr, hvb, hepoch⟩

/-- The same where nothing goes to VB. -/
theorem attrDec_walks_without_text (hp : AttrPresent s) (hf : Framed s) (ht : read16 s.mbSpace s.cur.toNat = t)
    (hk : kindOf t = k)
    (hv : valueDecoder k s.mbSpace s.cur.toNat (lengthAtCursor s) (heads t k s.mbSpace s.cur.toNat) =
      { record := r, text := [], err := none }) :
    ∃ u, exec .attrDec s = .next u ∧ Walked s u ∧ RecordHeads t s u ∧ u.attr = r ∧ ∀ a, u.vbSpace a = s.vbSpace a := by
  obtain ⟨u, hx, hw, hh, hattr, hvb, hepoch⟩ := attrDec_walks hp hf ht hk hv
  exact ⟨u, hx, hw, hh, hattr, fun a => by rw [State.vbSpace, hvb, hepoch]; rfl⟩

/-- ATTR_DEC of a framed attribute whose value fails: `r` is the record as far as it was written (R185). -/
theorem attrDec_stops (hp : AttrPresent s) (hf : Framed s) (ht : read16 s.mbSpace s.cur.toNat = t) (hk : kindOf t = k)
    (hv : valueDecoder k s.mbSpace s.cur.toNat (lengthAtCursor s) (heads t k s.mbSpace s.cur.toNat) =
      { record := r, text := text, err := some e }) :
    ∃ u, exec .attrDec s = .next u ∧ Stopped e s u ∧ RecordHeads t s u ∧ u.attr = r := by
  subst ht hk
  exact attrDecode_stopped hp _ e ((decodeAttrAs_framed ((framed_iff s).mp hf)).trans hv) rfl

end Ends

/-- Settles O35: every instruction of ATTR_DEC is refused before it looks at the attribute. -/
theorem attrDecNeedsAnAttribute : Obligations.AttrDecNeedsAnAttribute := by
  intro i s hw hc hno
  obtain ⟨t, he⟩ := exec_of_attribute hw hc s
  exact ⟨_, he.trans (attrDecode_refused _ _ _ s hno), refusal_refused _ _ _⟩

/-- Settles O36: the framing check precedes the value. -/
theorem attributeBeyondTheSectionFails : Obligations.AttributeBeyondTheSectionFails := by
  intro s t hp hf ht
  subst ht
  obtain ⟨u, hx, hs, hh, hattr⟩ := attrDecode_stopped (t := read16 s.mbSpace s.cur.toNat) hp _ .length
    (decodeAttrAs_unframed (Nat.not_le.mp (mt (framed_iff s).mpr hf))) rfl
  exact ⟨u, hx, hs, hh, by simp [hattr, AttrRecord.zero]⟩

/-- Settles O37: both masks are 0, and the wire fields are not recorded. -/
theorem attrDecMappedAddress : Obligations.AttrDecMappedAddress := by
  intro s hp hf ht hl h0 h1
  obtain ⟨u, hx, hw, hh, hattr, hvb⟩ := attrDec_walks_without_text hp hf ht kindOf_1 (decodeAddress_ipv4 _ hl h0 h1)
  exact ⟨u, hx, hw, hh, by simp [hattr, withAddress, withPort, heads, AttrRecord.zero, h1, hvb]⟩

/-- Settles O38: the masks are the cookie's, and the wire fields are recorded. -/
theorem attrDecXorMappedAddress : Obligations.AttrDecXorMappedAddress := by
  intro s hp hf ht hl h0 h1
  obtain ⟨u, hx, hw, hh, hattr, hvb⟩ := attrDec_walks_without_text hp hf ht kindOf_20 (decodeAddress_ipv4 _ hl h0 h1)
  exact ⟨u, hx, hw, hh, by
    simp [hattr, withAddress, withPort, heads, AttrRecord.zero, cookieHi16, cookie, h1, hvb]⟩

/-- An address type, by the masks of its decoder and by whether it records the wire fields (R176, R177). -/
theorem addressType_cases {t : Half} (h : t = 0x0001#16 ∨ t = 0x0020#16) :
    ∃ xor pm am, valueDecoder (kindOf t) = decodeAddress xor pm am ∧
      (t = 0x0001#16 → xor = false ∧ pm = 0#16) ∧ (t = 0x0020#16 → xor = true ∧ pm = 0x2112#16) := by
  rcases h with rfl | rfl
  · exact ⟨false, 0, 0, rfl, by decide, by decide⟩
  · exact ⟨true, cookieHi16, cookie, rfl, by decide, by decide⟩

/-- The port fields of a record whose port has been read, by the variant. -/
theorem withPort_port {t : Half} {xor : Bool} {pm : Half} {B : Space} {o : Nat} {r : AttrRecord}
    (h1 : t = 0x0001#16 → xor = false ∧ pm = 0#16) (h20 : t = 0x0020#16 → xor = true ∧ pm = 0x2112#16) :
    (t = 0x0001#16 → (withPort xor pm B o r).port = read16 B (o + 6) ∧ (withPort xor pm B o r).xport = 0#16) ∧
    (t = 0x0020#16 → (withPort xor pm B o r).xport = read16 B (o + 6) ∧
      (withPort xor pm B o r).port = (withPort xor pm B o r).xport ^^^ 0x2112#16) := by
  refine ⟨fun ht => ?_, fun ht => ?_⟩
  · obtain ⟨rfl, rfl⟩ := h1 ht; simp [withPort]
  · obtain ⟨rfl, rfl⟩ := h20 ht; simp [withPort]

/-- Settles O39: family and port are read, the address is not. -/
theorem attrDecOtherFamilyIsEmpty : Obligations.AttrDecOtherFamilyIsEmpty := by
  intro s t hp hf htype ht hl h0 h1
  obtain ⟨xor, pm, am, hdec, hmapped, hxor⟩ := addressType_cases htype
  have hv := decodeAddress_other (xor := xor) (pm := pm) (am := am) (heads t (kindOf t) s.mbSpace s.cur.toNat) hl h0 h1
  rw [← hdec] at hv
  obtain ⟨u, hx, hw, hh, hattr, hvb⟩ := attrDec_walks_without_text hp hf ht rfl hv
  obtain ⟨hport, hxport⟩ := withPort_port hmapped hxor
  rw [← hattr] at hport hxport
  exact ⟨u, hx, hw, hh, by rw [hattr]; rfl, by rw [hattr]; rfl, by rw [hattr]; rfl, by rw [hattr]; rfl,
    by rw [hattr]; rfl, hport, hxport, hvb⟩

/-- Settles O40: the tests in their order, each with those before it passed. -/
theorem malformedAddressFails : Obligations.MalformedAddressFails := by
  intro s t hp hf htype ht
  obtain ⟨xor, pm, am, hdec, hmapped, hxor⟩ := addressType_cases htype
  have hstops : ∀ {r e}, decodeAddress xor pm am s.mbSpace s.cur.toNat (lengthAtCursor s)
      (heads t (kindOf t) s.mbSpace s.cur.toNat) = { record := r, text := [], err := some e } →
      ∃ u, exec .attrDec s = .next u ∧ Stopped e s u ∧ RecordHeads t s u ∧ u.attr = r := by
    intro r e hv
    rw [← hdec] at hv
    exact attrDec_stops hp hf ht rfl hv
  refine ⟨fun hl => ?short, fun hl h0 => ?reserved, fun hl hl8 h0 h1 => ?ipv4⟩
  case short =>
    obtain ⟨u, hx, hs, hh, hattr⟩ := hstops (decodeAddress_short _ hl)
    exact ⟨u, hx, hs, hh, by simp [NoVariantFields, hattr, heads, AttrRecord.zero]⟩
  case reserved =>
    obtain ⟨u, hx, hs, hh, hattr⟩ := hstops (decodeAddress_reserved _ hl h0)
    exact ⟨u, hx, hs, hh, by simp [NoVariantFields, hattr, heads, AttrRecord.zero]⟩
  case ipv4 =>
    obtain ⟨u, hx, hs, hh, hattr⟩ := hstops (decodeAddress_ipv4_short _ hl hl8 h0 h1)
    obtain ⟨hport, hxport⟩ := withPort_port hmapped hxor
    rw [← hattr] at hport hxport
    exact ⟨u, hx, hs, hh, by rw [hattr]; exact h1, by rw [hattr]; rfl, by rw [hattr]; rfl, by rw [hattr]; rfl,
      by rw [hattr]; rfl, hport, hxport⟩

/-- VB after a Software value is stored from offset 0 on (R181). -/
theorem vbSpace_of_setBytes_slice {s u : State} {S : Space} {a l : Nat}
    (hvb : u.vb = Memory.setBytes s.vb 0 (slice S a l)) (hepoch : u.epoch = s.epoch) (x : Nat) :
    u.vbSpace x = if x < l then S (a + x) else s.vbSpace x := by
  rw [State.vbSpace, hvb, hepoch, getD_get?_setBytes]
  simp [State.vbSpace]

/-- Settles O41: a framed Software value decodes whatever its bytes are. -/
theorem attrDecSoftware : Obligations.AttrDecSoftware := by
  intro s hp hf ht
  obtain ⟨u, hx, hw, hh, hattr, hvb, hepoch⟩ := attrDec_walks hp hf ht kindOf_8022 rfl
  have hV := vbSpace_of_setBytes_slice hvb hepoch
  refine ⟨u, hx, hw, hh, fun k hk => ?_, fun k hk => ?_, by simp [hattr, heads, AttrRecord.zero]⟩
  · rw [hV, if_pos hk]
  · rw [hV, if_neg (Nat.not_lt.mpr hk)]

/-- Settles O42: by the length, then by whether the stored value matches. -/
theorem attrDecFingerprint : Obligations.AttrDecFingerprint := by
  intro s hp hf ht
  by_cases hl : lengthAtCursor s = 4
  · by_cases hcrc : fingerprintAt s.mbSpace s.cur.toNat = read32 s.mbSpace (s.cur.toNat + 4)
    · obtain ⟨u, hx, hw, hh, hattr, hvb⟩ := attrDec_walks_without_text hp hf ht kindOf_8028
        (by rw [hl]; exact (decodeFingerprint_read _).trans (by rw [if_neg (not_not.mpr hcrc)]))
      have hfp : u.attr.fp = read32 s.mbSpace (s.cur.toNat + 4) := by rw [hattr]
      refine ⟨u, hx, hh, fun h => absurd hl h, fun _ => ⟨hfp, fun _ => ⟨hw, hvb⟩, fun h => ?_⟩,
        by simp [hattr, heads, AttrRecord.zero]⟩
      exact absurd (hcrc.trans hfp.symm) h
    · obtain ⟨u, hx, hs, hh, hattr⟩ := attrDec_stops hp hf ht kindOf_8028
        (by rw [hl]; exact (decodeFingerprint_read _).trans (by rw [if_pos hcrc]))
      have hfp : u.attr.fp = read32 s.mbSpace (s.cur.toNat + 4) := by rw [hattr]
      refine ⟨u, hx, hh, fun h => absurd hl h, fun _ => ⟨hfp, fun h => ?_, fun _ => hs⟩,
        by simp [hattr, heads, AttrRecord.zero]⟩
      exact absurd (h.trans hfp) hcrc
  · obtain ⟨u, hx, hs, hh, hattr⟩ := attrDec_stops hp hf ht kindOf_8028 (decodeFingerprint_length _ hl)
    exact ⟨u, hx, hh, fun _ => ⟨hs, by rw [hattr]; rfl⟩, fun h => absurd h hl, by simp [hattr, heads, AttrRecord.zero]⟩

/-- Settles O43: a Generic value is not read. -/
theorem attrDecGenericIsSkipped : Obligations.AttrDecGenericIsSkipped := by
  intro s t hp hf hk ht
  obtain ⟨u, hx, hw, hh, hattr, hvb⟩ := attrDec_walks_without_text hp hf ht hk rfl
  exact ⟨u, hx, hw, hh, hvb, by simp [hattr, heads, AttrRecord.zero]⟩

/-- Settles O44: the instruction of a type is the attribute decode of that type, and so is ATTR_DEC where it stands. -/
theorem attributeTypeInstructionsDecode : Obligations.AttributeTypeInstructionsDecode := by
  intro t s hp hf hv
  rw [exec_decodeAttrType]
  obtain ⟨u, hx, hw, hh, -⟩ := attrDecode_walked (t := t) hp hf _ (decodeAttrAs_framed ((framed_iff s).mp hf))
    (valueDecoder_passes _ hv)
  exact ⟨u, hx, hw, hh, fun ht => by subst ht; exact hx⟩

/-! ## The walk (R175) -/

/-- Settles O45: an ATTR_DEC without an error is one that walked, over a multiple of 4 bytes inside the section. -/
theorem theWalkAdvancesAndEnds : Obligations.TheWalkAdvancesAndEnds := by
  intro s t hinv hx herr
  rcases attrDecode_cases hx with ⟨-, rfl⟩ | ⟨hmode, hlt, ⟨hlo, hhi, hend⟩, ⟨e, -, rfl⟩ | ⟨hnone, rfl⟩⟩
  · exact absurd herr (ErrCode.toByte_ne_zero .seq)
  · exact absurd herr (ErrCode.toByte_ne_zero e)
  · have hfr := decodeAttrAs_err_none hnone
    have h4 := wireSize_mod (attrLength s.mbSpace s.cur.toNat)
    have hge : 4 ≤ wireSize (attrLength s.mbSpace s.cur.toNat) := Nat.le_add_right _ _
    obtain ⟨-, -, hal⟩ := hinv.cursor (by simp [hmode])
    obtain ⟨-, -, hsec⟩ := hinv.decEnd hmode
    have hmul := hinv.hLen
    rw [mbSize_eq] at hend
    have hcur : (BitVec.ofNat 17 (s.cur.toNat + wireSize (attrLength s.mbSpace s.cur.toNat))).toNat =
        s.cur.toNat + wireSize (attrLength s.mbSpace s.cur.toNat) := by rw [BitVec.toNat_ofNat]; omega
    simp only [State.succeed_cur, State.succeed_endOff, hcur]
    exact ⟨by omega, hfr, trivial, by omega, by omega⟩

end Sys2Proof.Machine

/-! PROOF. The CRC of one changed byte (43_checksum.md R211 to R214): the table is linear and its top bytes tell its
entries apart, so the step can be undone. Then what an attribute decodes to wherever it stands, and with both the
Fingerprint and XOR laws of the attribute codec (42_attribute_codec.md R192, R193). -/

namespace Sys2Proof.Machine

/-! ## The step can be undone (R213) -/

/-- R211: the loop of the table is linear over XOR. -/
theorem crcShift_xor (n : Nat) (x y : Word) : crcShift n (x ^^^ y) = crcShift n x ^^^ crcShift n y := by
  induction n generalizing x y with
  | zero => rfl
  | succ n ih =>
    simp only [crcShift, ← ih, BitVec.getLsbD_xor, BitVec.ushiftRight_xor_distrib]
    congr 1
    cases x.getLsbD 0 <;> cases y.getLsbD 0
    · rfl
    · show crcPoly ^^^ (x >>> 1 ^^^ y >>> 1) = x >>> 1 ^^^ (crcPoly ^^^ y >>> 1)
      ac_rfl
    · show crcPoly ^^^ (x >>> 1 ^^^ y >>> 1) = crcPoly ^^^ x >>> 1 ^^^ y >>> 1
      ac_rfl
    · calc x >>> 1 ^^^ y >>> 1 = (crcPoly ^^^ crcPoly) ^^^ (x >>> 1 ^^^ y >>> 1) := by
            rw [BitVec.xor_self, BitVec.zero_xor]
        _ = (crcPoly ^^^ x >>> 1) ^^^ (crcPoly ^^^ y >>> 1) := by ac_rfl

theorem crcTable_xor (i j : Byte) : crcTable (i ^^^ j) = crcTable i ^^^ crcTable j := by
  rw [crcTable, BitVec.setWidth_xor, crcShift_xor]
  rfl

theorem crcTable_top_eq_zero : ∀ i : Byte, crcTable i >>> 24 = 0#32 → i = 0#8 := by decide +kernel

/-- Two table entries with the same top byte are one. -/
theorem crcTable_top_injective {i j : Byte} (h : crcTable i >>> 24 = crcTable j >>> 24) : i = j := by
  refine BitVec.xor_eq_zero_iff.mp (crcTable_top_eq_zero _ ?_)
  rw [crcTable_xor, BitVec.ushiftRight_xor_distrib, h, BitVec.xor_self]

/-- The top byte of a step is its table entry's, so a step's result gives back the table index and the shifted value. -/
theorem crcStep_eq_iff {c c' : Word} {b b' : Byte} :
    crcStep c b = crcStep c' b' ↔ c.setWidth 8 ^^^ b = c'.setWidth 8 ^^^ b' ∧ c >>> 8 = c' >>> 8 := by
  refine ⟨fun h => ?_, fun ⟨hi, hs⟩ => by rw [crcStep, crcStep, hi, hs]⟩
  unfold crcStep at h
  have top : ∀ x : Word, x >>> 8 >>> 24 = 0#32 := fun x => by
    rw [← BitVec.shiftRight_add]; exact BitVec.ushiftRight_eq_zero (by decide)
  have hi : c.setWidth 8 ^^^ b = c'.setWidth 8 ^^^ b' := by
    have h24 := congrArg (fun w : Word => w >>> 24) h
    simp only [BitVec.ushiftRight_xor_distrib, top, BitVec.xor_zero] at h24
    exact crcTable_top_injective h24
  exact ⟨hi, (BitVec.xor_right_inj _).mp (hi ▸ h)⟩

/-- The same byte after different values gives different values. -/
theorem crcStep_injective {c c' : Word} {b : Byte} (h : crcStep c b = crcStep c' b) : c = c' := by
  obtain ⟨hlow, hhigh⟩ := crcStep_eq_iff.mp h
  have hlow' := congrArg BitVec.toNat ((BitVec.xor_left_inj _).mp hlow)
  have hhigh' := congrArg BitVec.toNat hhigh
  simp only [BitVec.toNat_setWidth, BitVec.toNat_ushiftRight, Nat.shiftRight_eq_div_pow] at hlow' hhigh'
  exact BitVec.eq_of_toNat_eq (by omega)

/-- Different bytes after the same value give different values. -/
theorem crcStep_byte_injective {c : Word} {b b' : Byte} (h : crcStep c b = crcStep c b') : b = b' :=
  (BitVec.xor_right_inj _).mp (crcStep_eq_iff.mp h).1

/-! ## A range with one changed byte -/

/-- A fold stopped at byte `a + m`, and gone on with. -/
theorem crcFold_split (S : Space) (c : Word) (a m n : Nat) :
    crcFold S c a (m + 1 + n) = crcFold S (crcStep (crcFold S c a m) (S (a + m))) (a + m + 1) n := by
  induction m generalizing c a with
  | zero => rw [Nat.zero_add, Nat.add_comm 1 n]; rfl
  | succ m ih =>
    rw [show m + 1 + 1 + n = (m + 1 + n) + 1 by omega, crcFold, ih, crcFold, show a + 1 + m = a + (m + 1) by omega]

theorem crcFold_injective {S : Space} {c c' : Word} {a n : Nat} (h : crcFold S c a n = crcFold S c' a n) : c = c' := by
  induction n generalizing c c' a with
  | zero => exact h
  | succ n ih => exact crcStep_injective (ih h)

/-- R220: a range with one changed byte has another CRC: the values agree up to that byte, differ after it, and no later
byte makes them meet. -/
theorem crc32_ne_of_byte_ne {S T : Space} {start stop i : Nat} (hlo : start ≤ i) (hhi : i < stop)
    (hsame : ∀ a, a ≠ i → T a = S a) (hne : T i ≠ S i) : crc32 T start stop ≠ crc32 S start stop := by
  intro h
  obtain ⟨m, rfl⟩ := Nat.exists_eq_add_of_le hlo
  obtain ⟨n, rfl⟩ := Nat.exists_eq_add_of_le (show start + m + 1 ≤ stop from hhi)
  have hfold := (BitVec.xor_left_inj _).mp h
  rw [show start + m + 1 + n - start = m + 1 + n by omega, crcFold_split, crcFold_split,
    crcFold_congr (S := T) (T := S) _ start m fun k hk => hsame _ (by omega),
    crcFold_congr (S := T) (T := S) _ (start + m + 1) n fun k hk => hsame _ (by omega)] at hfold
  exact hne (crcStep_byte_injective (crcFold_injective hfold))

/-- A flipped bit changes its byte. -/
theorem xor_two_pow_ne {b : Byte} {j : Nat} (hj : j < 8) : b ^^^ BitVec.ofNat 8 (2 ^ j) ≠ b := by
  intro h
  have hz : BitVec.ofNat 8 (2 ^ j) = 0#8 := (BitVec.xor_right_inj b).mp (h.trans BitVec.xor_zero.symm)
  have := Nat.pow_lt_pow_right (a := 2) (by omega) hj
  have := Nat.two_pow_pos j
  have := congrArg BitVec.toNat hz
  simp only [BitVec.toNat_ofNat] at this
  omega

/-! ## An attribute that stands in any space (R173) -/

section Standing

variable {B : Space} {o stop : Nat}

/-- A framed attribute decodes as its value does. -/
theorem decodeAttrAt_eq {t : Half} (ht : read16 B o = t) (hf : o + wireSize (attrLength B o) ≤ stop) :
    decodeAttrAt B o stop = valueDecoder (kindOf t) B o (attrLength B o) (heads t (kindOf t) B o) := by
  subst ht
  exact decodeAttrAs_framed hf

theorem decodeAttrAt_fingerprint (ht : read16 B o = 0x8028#16) (hl : attrLength B o = 4) (hf : o + 8 ≤ stop) :
    decodeAttrAt B o stop =
      { record := { heads 0x8028#16 .fingerprint B o with fp := read32 B (o + 4) }, text := []
        err := if fingerprintAt B o ≠ read32 B (o + 4) then some .fingerprint else none } := by
  rw [decodeAttrAt_eq ht (by rwa [hl, wireSize_4]), kindOf_8028, hl]
  exact decodeFingerprint_read _

/-- A Fingerprint that decodes has 4 bytes, and they are the Fingerprint of the bytes before it (R182). -/
theorem fingerprint_matches_of_decodes (ht : read16 B o = 0x8028#16) (h : (decodeAttrAt B o stop).err = none) :
    attrLength B o = 4 ∧ fingerprintAt B o = read32 B (o + 4) := by
  have hf : o + wireSize (attrLength B o) ≤ stop := decodeAttrAs_err_none h
  have hl : attrLength B o = 4 := by
    by_contra hl
    rw [decodeAttrAt_eq ht hf, kindOf_8028] at h
    exact absurd ((congrArg Decoded.err (decodeFingerprint_length _ hl)).symm.trans h) nofun
  rw [hl, wireSize_4] at hf
  rw [decodeAttrAt_fingerprint ht hl hf] at h
  exact ⟨hl, not_not.mp fun hne => absurd ((if_pos hne).symm.trans h) nofun⟩

/-- A XorMappedAddress of family 1 whose wire fields are `p` and `a` under the cookie (R177). -/
theorem decodeAttrAt_xorMapped {p : Half} {a : Word} (ht : read16 B o = 0x0020#16) (hl : attrLength B o = 8)
    (h0 : B (o + 4) = 0#8) (h1 : B (o + 5) = 1#8) (hp : read16 B (o + 6) = p ^^^ cookieHi16)
    (ha : read32 B (o + 8) = a ^^^ cookie) (hf : o + 12 ≤ stop) :
    (decodeAttrAt B o stop).err = none ∧ valueOf (decodeAttrAt B o stop) = .xorMapped 1#8 p (some a) := by
  have hd : decodeAttrAt B o stop = _ := (decodeAttrAt_eq ht (by rwa [hl, wireSize_8])).trans
    (decodeAddress_ipv4 _ hl.ge h0 h1)
  rw [hd]
  refine ⟨rfl, ?_⟩
  simp [valueOf, withAddress, withPort, heads, kindOf_20, h1, hp, ha]

/-- A MappedAddress of family 1 (R176). -/
theorem decodeAttrAt_mapped {p : Half} {a : Word} (ht : read16 B o = 0x0001#16) (hl : attrLength B o = 8)
    (h0 : B (o + 4) = 0#8) (h1 : B (o + 5) = 1#8) (hp : read16 B (o + 6) = p) (ha : read32 B (o + 8) = a)
    (hf : o + 12 ≤ stop) :
    (decodeAttrAt B o stop).err = none ∧ valueOf (decodeAttrAt B o stop) = .mapped 1#8 p (some a) := by
  have hd : decodeAttrAt B o stop = _ := (decodeAttrAt_eq ht (by rwa [hl, wireSize_8])).trans
    (decodeAddress_ipv4 _ hl.ge h0 h1)
  rw [hd]
  refine ⟨rfl, ?_⟩
  simp [valueOf, withAddress, withPort, heads, kindOf_1, h1, hp, ha]

/-- A Software value is its bytes (R181). -/
theorem decodeAttrAt_software (ht : read16 B o = 0x8022#16) (hf : o + wireSize (attrLength B o) ≤ stop) :
    (decodeAttrAt B o stop).err = none ∧
      valueOf (decodeAttrAt B o stop) = .software (slice B (o + 4) (attrLength B o)) := by
  rw [decodeAttrAt_eq ht hf]
  exact ⟨rfl, rfl⟩

end Standing

/-- Settles O51: the bytes from the attribute on are the same, and the Fingerprint of those before it is another. -/
theorem fingerprintDetectsAFlipItReaches : Obligations.FingerprintDetectsAFlipItReaches := by
  intro S T o stop stop' i j ht hdec hi hj hsame hflip hstop
  obtain ⟨hl, hmatch⟩ := fingerprint_matches_of_decodes ht hdec
  have hfrom : ∀ k, T (o + k) = S (o + k) := fun k => hsame _ (by omega)
  have htT : read16 T o = 0x8028#16 := (read16_congr fun k _ => hfrom k).trans ht
  have hlT : attrLength T o = 4 :=
    (congrArg BitVec.toNat (read16_congr fun k _ => by rw [Nat.add_assoc]; exact hfrom _)).trans hl
  have hvalue : read32 T (o + 4) = read32 S (o + 4) := read32_congr fun k _ => by rw [Nat.add_assoc]; exact hfrom _
  have hcrc : crc32 T 0 o ≠ crc32 S 0 o :=
    crc32_ne_of_byte_ne (Nat.zero_le i) hi hsame (by rw [hflip]; exact xor_two_pow_ne hj)
  rw [decodeAttrAt_fingerprint htT hlT hstop, hvalue, ← hmatch]
  exact if_pos fun h => hcrc ((BitVec.xor_left_inj _).mp h)

/-- Settles O46: XOR undoes itself, and what ATTR_ENC wrote is read back field by field. -/
theorem xorMappedAddressFidelity : Obligations.XorMappedAddressFidelity := by
  refine ⟨fun p a => by simp, fun s t hmode htyp hfam hcur hroom hx => ?_⟩
  obtain ⟨t', hx', happ, -, -, ht, hl, hvalue, -⟩ := exec_attrEnc_of_room (k := .xorMapped) hmode (htyp ▸ kindOf_20)
    (by decide) (fun _ => hfam) hcur wireSize_8 hroom rfl
  cases hx.symm.trans hx'
  obtain ⟨-, -, hend, -⟩ := happ
  obtain ⟨h0, h1, hport, haddr⟩ := fields_of_addressValue t.mbSpace s.cur.toNat (s.attr.port ^^^ cookieHi16)
    (s.attr.addr ^^^ cookie) hvalue
  exact decodeAttrAt_xorMapped (ht.trans htyp) (congrArg BitVec.toNat hl) h0 h1 hport haddr hend.ge

end Sys2Proof.Machine

/-! PROOF. What the host observes of a received message (42_attribute_codec.md R189): HDR_DEC against DecodeHeader, then
each ATTR_DEC against one step of the walk. -/

namespace Sys2Proof.Machine

/-- A decode in progress: the cursor at `o` of a section that ends at `stop`, both 4-byte aligned inside MB (R33). -/
structure Walking (B : Space) (o stop : Nat) (s : State) : Prop where
  mode : s.mode = .dec
  space : s.mbSpace = B
  cur : s.cur.toNat = o
  endOff : s.endOff.toNat = stop
  start : 20 ≤ o
  size : stop ≤ Config.mbSize
  aligned : o % 4 = 0 ∧ stop % 4 = 0

section Walk

variable {B : Space} {o stop : Nat} {s : State}

/-- STATUS.MORE says whether an attribute is left (R26). -/
theorem Walking.more_iff (h : Walking B o stop s) : s.more = true ↔ o < stop := by
  simp [State.more, h.mode, h.cur, h.endOff]

theorem Walking.attrPresent (h : Walking B o stop s) (hlt : o < stop) : AttrPresent s := by
  obtain ⟨hmode, -, hcur, hend, hstart, hsize, ho, hs⟩ := h
  exact ⟨hmode, by omega, by omega, by omega, by omega⟩

/-- An attribute that fails ends the walk with its code (R185). -/
theorem Walking.exec_attrDec_of_error (h : Walking B o stop s) (hlt : o < stop) {e : ErrCode}
    (he : (decodeAttrAt B o stop).err = some e) : ∃ t, exec .attrDec s = .next t ∧ t.err = e.toByte := by
  have hp := h.attrPresent hlt
  obtain ⟨-, rfl, rfl, rfl, -⟩ := h
  exact ⟨_, attrDecode_of_error hp he, rfl⟩

end Walk

/-- The bytes of VB the host reads after an attribute: those of a Software value (R189). -/
def textRead (t : State) : List Byte :=
  if t.attr.kind = .software then slice t.vbSpace 0 t.attr.len.toNat else []

theorem slice_congr {S T : Space} {a b n : Nat} (h : ∀ i, i < n → S (a + i) = T (b + i)) :
    slice S a n = slice T b n :=
  List.ext_getElem (by simp) fun i hi _ => by simpa using h i (by simpa using hi)

/-- Length and kind of the attribute at `o`, as recorded, and its text (R173, R181). -/
theorem decodeAttrAt_spec (B : Space) (o stop : Nat) :
    (decodeAttrAt B o stop).record.len = read16 B (o + 2) ∧
    (decodeAttrAt B o stop).record.kind = kindOf (read16 B o) ∧
    (decodeAttrAt B o stop).text =
      if kindOf (read16 B o) = .software ∧ o + wireSize (attrLength B o) ≤ stop then
        slice B (o + 4) (attrLength B o) else [] := by
  obtain ⟨-, hlen, hkind, -⟩ := decodeAttrAs_heads (read16 B o) (kindOf (read16 B o)) B o stop
  exact ⟨hlen, hkind, decodeAttrAs_text _ _ B o stop⟩

/-- The text the host reads off VB is the one the attribute put there (R181). -/
theorem textRead_eq {B : Space} {o stop : Nat} {s t : State} (hf : o + wireSize (attrLength B o) ≤ stop)
    (hattr : t.attr = (decodeAttrAt B o stop).record)
    (hvb : t.vb = Memory.setBytes s.vb 0 (decodeAttrAt B o stop).text) (hepoch : t.epoch = s.epoch) :
    textRead t = (decodeAttrAt B o stop).text := by
  obtain ⟨hlen, hkind, htext⟩ := decodeAttrAt_spec B o stop
  rw [htext] at hvb
  rw [textRead, hattr, hkind, htext]
  by_cases hk : kindOf (read16 B o) = .software
  · rw [if_pos ⟨hk, hf⟩] at hvb
    rw [if_pos hk, if_pos ⟨hk, hf⟩, hlen]
    refine slice_congr fun i hi => ?_
    rw [vbSpace_of_setBytes_slice hvb hepoch, Nat.zero_add]
    exact if_pos hi
  · rw [if_neg hk, if_neg fun h => hk h.1]

/-- What the host reads off the record and VB is the decoded attribute (R189). -/
theorem observed_eq {B : Space} {o stop : Nat} {s t : State} (he : (decodeAttrAt B o stop).err = none)
    (hattr : t.attr = (decodeAttrAt B o stop).record)
    (hvb : t.vb = Memory.setBytes s.vb 0 (decodeAttrAt B o stop).text) (hepoch : t.epoch = s.epoch) :
    ({ record := t.attr, text := textRead t, err := none } : Decoded) = decodeAttrAt B o stop := by
  rw [textRead_eq (decodeAttrAs_err_none he) hattr hvb hepoch, hattr, ← he]

/-- An attribute that decodes: the host reads it off the record and VB, and the walk goes on behind it (R173). -/
theorem Walking.exec_attrDec_of_pass {B : Space} {o stop : Nat} {s : State} (h : Walking B o stop s) (hlt : o < stop)
    (he : (decodeAttrAt B o stop).err = none) :
    ∃ t, exec .attrDec s = .next t ∧ t.err = 0 ∧
      ({ record := t.attr, text := textRead t, err := none } : Decoded) = decodeAttrAt B o stop ∧
      Walking B (o + wireSize (attrLength B o)) stop t := by
  have hp := h.attrPresent hlt
  obtain ⟨hmode, rfl, rfl, rfl, hstart, hsize, ho, hs⟩ := h
  have hf := decodeAttrAs_err_none he
  have h4 := wireSize_mod (attrLength s.mbSpace s.cur.toNat)
  refine ⟨_, attrDecode_of_pass hp he, rfl, observed_eq (s := s) he rfl rfl rfl,
    ⟨hmode, rfl, ?_, rfl, by omega, hsize, by omega, hs⟩⟩
  rw [mbSize_eq] at hsize
  simp only [State.succeed_cur, BitVec.toNat_ofNat]
  omega

/-! ## The whole walk, and the whole message -/

theorem mapError_map {α β ε ε' : Type} (f : α → β) (g : ε → ε') (x : Except ε α) :
    (x.map f).mapError g = (x.mapError g).map f := by
  cases x <;> rfl

/-- R189: the ATTR_DEC commands observe the walk of R175, attribute by attribute. -/
theorem Walking.observeAttrs_eq {B : Space} {o stop : Nat} {s : State} (fuel : Nat) (h : Walking B o stop s) :
    observeAttrs fuel s = (decodeAttrs B stop fuel o).mapError ErrCode.toByte := by
  induction fuel generalizing o s with
  | zero => rfl
  | succ fuel ih =>
    rw [observeAttrs, decodeAttrs]
    by_cases hlt : o < stop
    · rw [if_pos (h.more_iff.mpr hlt), if_neg (Nat.not_le.mpr hlt)]
      cases he : (decodeAttrAt B o stop).err with
      | some e =>
        obtain ⟨t, hx, herr⟩ := h.exec_attrDec_of_error hlt he
        have hne : t.err ≠ 0 := herr ▸ e.toByte_ne_zero
        simp only [hx, he]
        rw [if_neg hne, herr]
        rfl
      | none =>
        obtain ⟨t, hx, herr, hd, hw⟩ := h.exec_attrDec_of_pass hlt he
        simp only [hx, herr, if_true, mapError_map, ← ih hw, ← hd]
        rfl
    · rw [if_neg (mt h.more_iff.mp hlt), if_pos (Nat.not_lt.mp hlt)]
      rfl

/-- A header that passes opens the walk of its section (R147). -/
theorem walking_of_header {s : State} {h : Header} (hok : decodeHeader s.mbSpace s.rxLen.toNat s.tidchk s.expTid = .ok h) :
    ∃ t, exec .hdrDec s = .next t ∧ t.err = 0 ∧
      ({ cls := t.hClass, method := t.hMethod, len := t.hLen, tid := t.hTid } : Header) = h ∧
      Walking s.mbSpace 20 (20 + h.len.toNat) t := by
  obtain ⟨t, hx⟩ := hdrDecode_next (read16 s.mbSpace 0) s
  obtain ⟨⟨-, hn⟩, -, -, -, ⟨hal, hlen⟩, -, hfields⟩ := decodeHeaderAs_eq_ok.mp hok
  have hl : h.len = read16 s.mbSpace 2 := by rw [hfields]
  rcases hdrDecode_cases hx with ⟨e, he, -⟩ | ⟨h', hok', rfl⟩
  · cases he.symm.trans hok
  · cases hok'.symm.trans hok
    rw [hl] at hx ⊢
    refine ⟨_, hx, rfl, ?_, ⟨rfl, rfl, rfl, ?_, Nat.le_refl _, by omega, by omega⟩⟩
    · rw [← hl]; rfl
    · simp only [State.succeed_endOff, BitVec.toNat_ofNat]
      omega

/-- Settles O55: a header that fails gives its code; one that passes opens the walk, which is observed step by step. -/
theorem hostObservesDecodeMessage : Obligations.HostObservesDecodeMessage := by
  intro s
  rw [observeMessage, decodeMessage]
  cases hd : decodeHeader s.mbSpace s.rxLen.toNat s.tidchk s.expTid with
  | error e =>
    have hx : exec .hdrDec s = .next (s.parseError opHdrDec e) := hdrDecode_of_error _ s e hd
    have hne : (s.parseError opHdrDec e).err ≠ 0 := e.toByte_ne_zero
    simp only [hx]
    rw [if_neg hne]
    rfl
  | ok h =>
    obtain ⟨t, hx, herr, rfl, hw⟩ := walking_of_header hd
    simp only [hx, herr, if_true, hw.observeAttrs_eq]
    cases decodeAttrs s.mbSpace (20 + t.hLen.toNat) (t.hLen.toNat / 4) 20 <;> rfl

end Sys2Proof.Machine

/-! PROOF. Messages as byte lists (42_attribute_codec.md R187, R188): what an appended value leaves and adds, what the
attribute it adds decodes to, and the round trip of a whole message (R191). -/

namespace Sys2Proof.Machine

/-! ## One value's record (R96, R187) -/

/-- The value length of a value. -/
def valueSize (a : AttrValue) : Nat := valueLength (kindOf (recordOf a).typ) (recordOf a)

/-- The value bytes of a value appended at offset `o` of a message whose earlier bytes are `M`. -/
def valueBytes (M : Space) (o : Nat) (a : AttrValue) : List Byte :=
  (encodeValue (kindOf (recordOf a).typ) M (overlay (textOf a) (fun _ => 0)) o (valueSize a) (recordOf a)).2

/-- A message with the length it has once a value is appended (R164). -/
def relengthened (b : List Byte) (a : AttrValue) : List Byte :=
  setLength b (b.length - 20 + wireSize (valueSize a))

/-- R188: the length first, then the record. -/
theorem appendValue_eq (b : List Byte) (a : AttrValue) :
    appendValue b a = relengthened b a ++
      attrBytes (recordOf a).typ (valueSize a) (valueBytes (overlay (relengthened b a) (fun _ => 0)) b.length a) := rfl

@[simp] theorem length_valueBytes (M : Space) (o : Nat) (a : AttrValue) : (valueBytes M o a).length = valueSize a :=
  length_encodeValue _ _ _ _ _ _

theorem length_recordBytes (t : Half) (M : Space) (o : Nat) (a : AttrValue) :
    (attrBytes t (valueSize a) (valueBytes M o a)).length = wireSize (valueSize a) := by
  rw [length_attrBytes, length_valueBytes, Nat.add_assoc]
  rfl

/-! ## A message and its length field (R164) -/

/-- A two-byte field keeps the low 16 bits. -/
theorem beBytes_two_ofNat (n : Nat) : beBytes 2 (BitVec.ofNat 16 n).toNat = beBytes 2 n := by
  simp only [beBytes, BitVec.toNat_ofNat, List.cons.injEq, and_true]
  constructor <;> apply BitVec.eq_of_toNat_eq <;> simp only [BitVec.toNat_ofNat] <;> omega

/-- A message of a class, a method and an identifier whose length field counts what follows the header. -/
def IsMessage (c m : Half) (tid : Tid) (b : List Byte) : Prop :=
  ∃ tail, b = encodeHeader c m (BitVec.ofNat 16 (b.length - 20)) tid ++ tail

theorem IsMessage.length_ge {c m : Half} {tid : Tid} {b : List Byte} (h : IsMessage c m tid b) : 20 ≤ b.length := by
  obtain ⟨tail, htail⟩ := h
  rw [htail, List.length_append, length_encodeHeader]
  exact Nat.le_add_right _ _

/-- Rewriting the length of an encoded header gives the header of that length. -/
theorem setLength_encodeHeader (c m l : Half) (tid : Tid) (tail : List Byte) (n : Nat) :
    setLength (encodeHeader c m l tid ++ tail) n = encodeHeader c m (BitVec.ofNat 16 n) tid ++ tail := by
  simp only [setLength, encodeHeader, beBytes_two_ofNat]
  simp [beBytes]

section Append

variable {c m : Half} {tid : Tid} {b : List Byte}

theorem length_relengthened (h : 20 ≤ b.length) (a : AttrValue) : (relengthened b a).length = b.length := by
  simp [relengthened, setLength]; omega

theorem length_appendValue (h : 20 ≤ b.length) (a : AttrValue) :
    (appendValue b a).length = b.length + wireSize (valueSize a) := by
  rw [appendValue_eq, List.length_append, length_relengthened h, length_recordBytes]

/-- Rewriting the length changes bytes 2 and 3 only. -/
theorem getElem?_relengthened (h : 20 ≤ b.length) (a : AttrValue) {i : Nat} (hi : 4 ≤ i) :
    (relengthened b a)[i]? = b[i]? := by
  have hlen : (b.take 2 ++ beBytes 2 (b.length - 20 + wireSize (valueSize a))).length = 4 := by simp; omega
  rw [relengthened, setLength, List.getElem?_append_right (by omega), hlen, List.getElem?_drop]
  congr 1
  omega

/-- Appending a value keeps every earlier byte but the length field. -/
theorem getElem?_appendValue (h : 20 ≤ b.length) (a : AttrValue) {i : Nat} (hi : 4 ≤ i) (hlt : i < b.length) :
    (appendValue b a)[i]? = b[i]? := by
  rw [appendValue_eq, List.getElem?_append_left (by rwa [length_relengthened h]), getElem?_relengthened h a hi]

/-- The record stands behind the earlier bytes. -/
theorem getElem?_appendValue_record (h : 20 ≤ b.length) (a : AttrValue) (i : Nat) :
    (appendValue b a)[b.length + i]? =
      (attrBytes (recordOf a).typ (valueSize a)
        (valueBytes (overlay (relengthened b a) (fun _ => 0)) b.length a))[i]? := by
  have hl := length_relengthened h a
  rw [appendValue_eq, List.getElem?_append_right (by omega), hl, Nat.add_sub_cancel_left]

theorem IsMessage.appendValue (h : IsMessage c m tid b) (a : AttrValue) : IsMessage c m tid (appendValue b a) := by
  have h20 := h.length_ge
  obtain ⟨tail, htail⟩ := h
  refine ⟨tail ++ attrBytes (recordOf a).typ (valueSize a)
    (valueBytes (overlay (relengthened b a) (fun _ => 0)) b.length a), ?_⟩
  have hre : relengthened b a =
      encodeHeader c m (BitVec.ofNat 16 ((Machine.appendValue b a).length - 20)) tid ++ tail := by
    rw [length_appendValue h20, show b.length + wireSize (valueSize a) - 20 = b.length - 20 + wireSize (valueSize a) by
      omega, ← setLength_encodeHeader c m (BitVec.ofNat 16 (b.length - 20)), ← htail]
    rfl
  rw [← List.append_assoc, ← hre]
  exact appendValue_eq b a

end Append

/-! ## What an appended value decodes to (R192, R176 to R182) -/

/-- R162. -/
@[simp] theorem valueSize_mapped (f : Byte) (p : Half) (x : Option Word) : valueSize (.mapped f p x) = 8 := rfl
@[simp] theorem valueSize_xorMapped (f : Byte) (p : Half) (x : Option Word) : valueSize (.xorMapped f p x) = 8 := rfl
@[simp] theorem valueSize_fingerprint : valueSize .fingerprint = 4 := rfl

theorem valueSize_software {text : List Byte} (h : encodable (.software text) = true) :
    valueSize (.software text) = text.length := by
  have hlen : text.length ≤ 65528 := of_decide_eq_true h
  show (BitVec.ofNat 16 text.length).toNat = text.length
  rw [BitVec.toNat_ofNat, Nat.mod_eq_of_lt (by omega)]

/-- R187: an encodable address is one of family 1 that is not absent. -/
theorem address_of_encodable {f : Byte} {x : Option Word} (h : (f == familyIPv4 && x.isSome) = true) :
    f = 1#8 ∧ ∃ w, x = some w := by
  rw [Bool.and_eq_true, beq_iff_eq, Option.isSome_iff_exists] at h
  exact h

/-- An encodable value fits the length field. -/
theorem valueSize_lt {a : AttrValue} (h : encodable a = true) : valueSize a < 65536 := by
  cases a with
  | mapped f p x => simp
  | xorMapped f p x => simp
  | software text =>
    have hlen : text.length ≤ 65528 := of_decide_eq_true h
    rw [valueSize_software h]
    omega
  | fingerprint => simp
  | generic t l => cases h

/-- The record of an encodable value, wherever it stands, decodes to that value; for a Fingerprint the bytes before it
must be those it was computed over. -/
theorem decodeAttrAt_of_record {B M : Space} {o stop : Nat} {a : AttrValue} (henc : encodable a = true)
    (hM : a = .fingerprint → ∀ x, x < o → M x = B x)
    (hB : ∀ i, i < wireSize (valueSize a) →
      some (B (o + i)) = (attrBytes (recordOf a).typ (valueSize a) (valueBytes M o a))[i]?)
    (hstop : o + wireSize (valueSize a) ≤ stop) :
    (decodeAttrAt B o stop).err = none ∧ valueOf (decodeAttrAt B o stop) = a ∧ attrLength B o = valueSize a := by
  have hl := valueSize_lt henc
  obtain ⟨ht, hlen, hvalue, -⟩ := fields_of_attrBytes (recordOf a).typ (valueSize a) hl (valueBytes M o a) B o
    fun i hi => by
      rw [length_recordBytes] at hi
      exact Option.some.inj ((hB i hi).trans (List.getElem?_eq_getElem _))
  have hsize : attrLength B o = valueSize a :=
    (congrArg BitVec.toNat hlen).trans (by rw [BitVec.toNat_ofNat]; exact Nat.mod_eq_of_lt hl)
  rw [← and_assoc]
  refine ⟨?_, hsize⟩
  cases a with
  | mapped f p x =>
    obtain ⟨hf, x, rfl⟩ := address_of_encodable henc
    obtain ⟨h0, h1, hp, ha⟩ := fields_of_addressValue B o p x hvalue
    rw [valueSize_mapped, wireSize_8] at hstop
    exact hf ▸ decodeAttrAt_mapped ht hsize h0 h1 hp ha hstop
  | xorMapped f p x =>
    obtain ⟨hf, x, rfl⟩ := address_of_encodable henc
    obtain ⟨h0, h1, hp, ha⟩ := fields_of_addressValue B o (p ^^^ cookieHi16) (x ^^^ cookie) hvalue
    rw [valueSize_xorMapped, wireSize_8] at hstop
    exact hf ▸ decodeAttrAt_xorMapped ht hsize h0 h1 hp ha hstop
  | software text =>
    obtain ⟨hnone, hval⟩ := decodeAttrAt_software ht (hsize ▸ hstop)
    rw [valueSize_software henc] at hsize
    refine ⟨hnone, hval.trans (congrArg AttrValue.software (List.ext_getElem (by simpa using hsize) fun i hi hi' => ?_))⟩
    rw [getElem_slice, hvalue i (by rwa [length_valueBytes, valueSize_software henc])]
    simp [valueBytes, encodeValue, recordOf, typeSoftware, kindOf_8022, textOf, overlay_of_lt _ _ i hi']
  | fingerprint =>
    have hread : read32 B (o + 4) = fingerprintAt M o := read32_of_beBytes fun i hi => hvalue i hi
    have hcrc : fingerprintAt B o = read32 B (o + 4) := by
      rw [hread, fingerprintAt, crc32_congr 0 o fun x _ hx => (hM rfl x hx).symm]
      rfl
    rw [valueSize_fingerprint, wireSize_4] at hstop
    rw [decodeAttrAt_fingerprint ht hsize hstop]
    exact ⟨if_neg (not_not.mpr hcrc), rfl⟩
  | generic t l => cases henc

/-! ## The round trip of a whole message (R191) -/

section Fold

variable {b : List Byte}

theorem length_foldl_appendValue (h : 20 ≤ b.length) (as : List AttrValue) :
    b.length + 4 * as.length ≤ (as.foldl appendValue b).length ∧
    (as.foldl appendValue b).length % 4 = b.length % 4 := by
  induction as generalizing b with
  | nil => exact ⟨Nat.le_refl _, rfl⟩
  | cons a as ih =>
    have hlen := length_appendValue h a
    have h4 := wireSize_mod (valueSize a)
    have hge : 4 ≤ wireSize (valueSize a) := Nat.le_add_right _ _
    obtain ⟨hlow, hmod⟩ := ih (b := appendValue b a) (by omega)
    rw [List.foldl_cons, List.length_cons]
    omega

/-- Later values keep every earlier byte but the length field. -/
theorem getElem?_foldl_appendValue (h : 20 ≤ b.length) (as : List AttrValue) {i : Nat} (hi : 4 ≤ i)
    (hlt : i < b.length) : (as.foldl appendValue b)[i]? = b[i]? := by
  induction as generalizing b with
  | nil => rfl
  | cons a as ih =>
    have hlen := length_appendValue h a
    rw [List.foldl_cons, ih (by omega) (by omega), getElem?_appendValue h a hi hlt]

theorem IsMessage.foldl_appendValue {c m : Half} {tid : Tid} (h : IsMessage c m tid b) (as : List AttrValue) :
    IsMessage c m tid (as.foldl Machine.appendValue b) := by
  induction as generalizing b with
  | nil => exact h
  | cons a as ih => exact ih (h.appendValue a)

end Fold

/-- The first value appended to `b`, read from the finished message; a Fingerprint only where nothing follows it. -/
theorem decodeAttrAt_first {b : List Byte} {a : AttrValue} {as : List AttrValue} (rest : Space) {stop : Nat}
    (h : 20 ≤ b.length) (henc : encodable a = true) (hfp : a = .fingerprint → as = [])
    (hstop : b.length + wireSize (valueSize a) ≤ stop) :
    let B := overlay ((a :: as).foldl appendValue b) rest
    (decodeAttrAt B b.length stop).err = none ∧ valueOf (decodeAttrAt B b.length stop) = a ∧
      attrLength B b.length = valueSize a := by
  have hlen := length_appendValue h a
  obtain ⟨hfinal, -⟩ := length_foldl_appendValue (b := appendValue b a) (by omega) as
  refine decodeAttrAt_of_record (M := overlay (relengthened b a) (fun _ => 0)) henc ?_ (fun i hi => ?_) hstop
  · intro hf x hx
    obtain rfl := hfp hf
    have hx' : x < (relengthened b a).length := by rwa [length_relengthened h]
    rw [overlay_of_lt _ _ _ hx', List.foldl_cons, List.foldl_nil, overlay_of_lt _ _ _ (by omega)]
    simp [appendValue_eq, hx']
  · rw [List.foldl_cons, overlay_of_lt _ _ _ (by omega), ← List.getElem?_eq_getElem,
      getElem?_foldl_appendValue (by omega) as (by omega) (by omega), getElem?_appendValue_record h]

/-- One step of the walk (R175). -/
theorem decodeAttrs_of_pass {B : Space} {o stop fuel : Nat} {ds : List Decoded} (hlt : o < stop)
    (hnone : (decodeAttrAt B o stop).err = none)
    (hds : decodeAttrs B stop fuel (o + wireSize (attrLength B o)) = .ok ds) :
    decodeAttrs B stop (fuel + 1) o = .ok (decodeAttrAt B o stop :: ds) := by
  rw [decodeAttrs, if_neg (Nat.not_le.mpr hlt)]
  simp only [hnone, hds]
  rfl

/-- Where only the last value may be a Fingerprint, the first is one only if nothing follows it. -/
theorem fingerprint_only_last {a : AttrValue} {as : List AttrValue} (h : ∀ x ∈ (a :: as).dropLast, x ≠ .fingerprint) :
    (a = .fingerprint → as = []) ∧ ∀ x ∈ as.dropLast, x ≠ .fingerprint := by
  cases as with
  | nil => simp
  | cons y ys =>
    rw [List.dropLast_cons_cons, List.forall_mem_cons] at h
    exact ⟨fun ha => absurd ha h.1, h.2⟩

/-- The walk over a finished message from where `as` were appended gives `as`. -/
theorem decodeAttrs_foldl_appendValue {b : List Byte} {as : List AttrValue} (rest : Space) {fuel : Nat}
    (h : 20 ≤ b.length) (henc : ∀ a ∈ as, encodable a = true) (hfp : ∀ a ∈ as.dropLast, a ≠ .fingerprint)
    (hfuel : as.length ≤ fuel) :
    ∃ ds, decodeAttrs (overlay (as.foldl appendValue b) rest) (as.foldl appendValue b).length fuel b.length = .ok ds ∧
      ds.map valueOf = as := by
  induction as generalizing b fuel with
  | nil =>
    refine ⟨[], ?_, rfl⟩
    cases fuel with
    | zero => rfl
    | succ fuel => exact if_pos (Nat.le_refl _)
  | cons a as ih =>
    obtain ⟨fuel, rfl⟩ := Nat.exists_eq_succ_of_ne_zero (Nat.ne_of_gt (Nat.lt_of_lt_of_le (by simp) hfuel))
    have hlen := length_appendValue h a
    have hge : 4 ≤ wireSize (valueSize a) := Nat.le_add_right _ _
    obtain ⟨hfinal, -⟩ := length_foldl_appendValue (b := appendValue b a) (by omega) as
    obtain ⟨hlast, hfp'⟩ := fingerprint_only_last hfp
    obtain ⟨hnone, hval, hsize⟩ := decodeAttrAt_first (as := as) rest
      (stop := ((a :: as).foldl appendValue b).length) h (henc a (by simp)) hlast (by rw [List.foldl_cons]; omega)
    obtain ⟨ds, hds, hmap⟩ := ih (b := appendValue b a) (fuel := fuel) (by omega) (fun x hx => henc x (by simp [hx]))
      hfp' (by simpa using hfuel)
    refine ⟨_ :: ds, ?_, congrArg₂ List.cons hval hmap⟩
    exact decodeAttrs_of_pass (by rw [List.foldl_cons]; omega) hnone (by rw [hsize, ← hlen]; exact hds)

/-- Bytes in front of bytes in front of a space. -/
theorem overlay_append (xs ys : List Byte) (rest : Space) : ∃ rest', overlay (xs ++ ys) rest = overlay xs rest' := by
  refine ⟨fun a => overlay (xs ++ ys) rest a, funext fun a => ?_⟩
  by_cases ha : a < xs.length
  · rw [overlay_of_lt _ _ _ ha, overlay_of_lt _ _ _ (by rw [List.length_append]; omega), List.getElem_append_left ha]
  · rw [overlay_of_ge xs _ _ (Nat.not_lt.mp ha)]

/-- An encoded message of no values is a header that declares length 0. -/
theorem isMessage_encodeHeader (c m : Half) (tid : Tid) : IsMessage c m tid (encodeHeader c m 0 tid) :=
  ⟨[], by simp⟩

/-- Settles O53: the header by its own round trip, the attributes by induction over the list of values. -/
theorem messageRoundTrip : Obligations.MessageRoundTrip := by
  intro c m tid any as rest hlegal henc hfp hfit
  set F := encodeMessage c m tid as with hF
  have hmsg : IsMessage c m tid F := (isMessage_encodeHeader c m tid).foldl_appendValue as
  obtain ⟨hlow, hmod⟩ := length_foldl_appendValue (b := encodeHeader c m 0 tid) (by simp) as
  change _ ≤ F.length at hlow
  change F.length % 4 = _ at hmod
  rw [length_encodeHeader] at hlow hmod
  have hlen : (BitVec.ofNat 16 (F.length - 20)).toNat = F.length - 20 := by
    rw [mbSize_eq] at hfit
    rw [BitVec.toNat_ofNat]
    omega
  have hheader : decodeHeader (overlay F rest) F.length false any =
      .ok { cls := c, method := m, len := BitVec.ofNat 16 (F.length - 20), tid := tid } := by
    obtain ⟨tail, htail⟩ := hmsg
    obtain ⟨rest', hrest⟩ := overlay_append (encodeHeader c m (BitVec.ofNat 16 (F.length - 20)) tid) tail rest
    rw [← htail] at hrest
    have hround := headerRoundTrip c m (BitVec.ofNat 16 (F.length - 20)) tid any rest' hlegal (by omega) (by omega)
    rwa [hlen, show 20 + (F.length - 20) = F.length by omega, ← hrest] at hround
  obtain ⟨ds, hds, hmap⟩ := decodeAttrs_foldl_appendValue (b := encodeHeader c m 0 tid) (fuel := (F.length - 20) / 4)
    rest (by simp) henc hfp (by omega)
  rw [length_encodeHeader] at hds
  change decodeAttrs (overlay F rest) F.length _ 20 = _ at hds
  rw [decodeMessage, hheader]
  simp only [hlen, show 20 + (F.length - 20) = F.length by omega, hds, hmap]

/-! ## A flip no Fingerprint detects (R193 (c), 90_conflicts.md C4) -/

/-- Message F of vector V38: a request with the Software text `61 62 63 64` and its Fingerprint. -/
def messageV38 : List Byte :=
  [0x00, 0x01, 0x00, 0x10, 0x21, 0x12, 0xA4, 0x42, 0x00, 0x01, 0x02, 0x03, 0x04, 0x05, 0x06, 0x07, 0x08, 0x09, 0x0A,
    0x0B, 0x80, 0x22, 0x00, 0x04, 0x61, 0x62, 0x63, 0x64, 0x80, 0x28, 0x00, 0x04, 0xC4, 0x9C, 0x8C, 0x80]

/-- Settles O52 by V38: bit 3 of byte 23 makes the Software length 12, and the Software swallows the Fingerprint. -/
theorem someSingleBitFlipIsNotDetected : Obligations.SomeSingleBitFlipIsNotDetected :=
  ⟨messageV38, 23, 3, Vector.replicate 12 0, fun _ => 0, by decide, by decide, by decide +kernel, by decide +kernel,
    by decide +kernel⟩

end Sys2Proof.Machine

/-! PROOF. The host program of a message (42_attribute_codec.md R188): a host program as a relation between states, what
the loads of operands and of VB do, ATTR_ENC as one appended value, and the whole program by induction over the
values. -/

namespace Sys2Proof.Machine

/-! ## Host programs, whatever stands behind them at the port -/

/-- The same machine with other events pending and another answer at the port. -/
def State.atPort (s : State) (port : List Event) (reply : Reply) : State := { s with port := port, reply := reply }

/-- A run of `m + n` steps whose first `m` answer a next state. -/
theorem run_add {M : Host.Core} {m n : Nat} {s t : M.State} (h : M.run m s = .next t) : M.run (m + n) s = M.run n t := by
  induction m generalizing s with
  | zero => cases h; rw [Nat.zero_add]
  | succ m ih =>
    cases hs : M.step s with
    | next u =>
      rw [run_of_step hs] at h
      rw [Nat.succ_add, run_of_step hs, ih h]
    | fault r => rw [Host.Core.run, hs] at h; cases h
    | refused r => rw [Host.Core.run, hs] at h; cases h

/-- The program `es` takes the machine from `s` to `t`, whatever events follow it; what the port answered is left open. -/
def Runs (es : List Event) (s t : State) : Prop :=
  ∀ rest q, ∃ q', Sys2Proof.core.run es.length (s.atPort (es ++ rest) q) = .next (t.atPort rest q')

theorem Runs.nil (s : State) : Runs [] s s := fun _ q => ⟨q, rfl⟩

theorem Runs.append {es es' : List Event} {s t u : State} (h : Runs es s t) (h' : Runs es' t u) :
    Runs (es ++ es') s u := by
  intro rest q
  obtain ⟨q1, h1⟩ := h (es' ++ rest) q
  obtain ⟨q2, h2⟩ := h' rest q1
  refine ⟨q2, ?_⟩
  rw [List.length_append, List.append_assoc]
  exact (run_add h1).trans h2

/-- One event (R69). -/
theorem Runs.single {e : Event} {s t : State}
    (h : ∀ rest, ∃ q, runEvent e (s.atPort rest .none) = .next (t.atPort rest q)) : Runs [e] s t := by
  intro rest q
  obtain ⟨q', hx⟩ := h rest
  refine ⟨q', ?_⟩
  have hstep : step (s.atPort ([e] ++ rest) q) = .next (t.atPort rest q') := (step_of_port_cons rfl).trans hx
  exact run_of_step (M := Sys2Proof.core) (k := 0) hstep

theorem Runs.cons {e : Event} {es : List Event} {s t u : State}
    (h : ∀ rest, ∃ q, runEvent e (s.atPort rest .none) = .next (t.atPort rest q)) (h' : Runs es t u) :
    Runs (e :: es) s u :=
  (Runs.single h).append h'

/-- A register's value on the 32-bit port, cut to the register's width again (R241). -/
theorem setWidth_port {n : Nat} (h : n ≤ 32) (x : BitVec n) : (x.setWidth 32).setWidth n = x := by
  rw [BitVec.setWidth_setWidth_of_le _ h, BitVec.setWidth_eq]

/-- A command that answers a next state whatever is pending. -/
theorem Runs.command {op : Byte} {s t : State}
    (h : ∀ rest, exec (decodeCmd op) (s.atPort rest .none) = .next (t.atPort rest .none)) : Runs [evCommand op] s t := by
  refine Runs.single fun rest => ⟨.none, ?_⟩
  rw [evCommand, runEvent_command, commandOf, setWidth_port (by decide)]
  exact h rest

/-! ## Loading registers and VB (R294) -/

theorem Reg.number_ne_zero (r : Reg) : r.number ≠ 0x00#8 := by
  intro h
  have := regOf_number r
  rw [h, (regOf_eq_none_iff 0x00#8).mpr (.inl rfl)] at this
  cases this

theorem Reg.write_atPort (r : Reg) (v : Word) (s : State) (p : List Event) (q : Reply) :
    r.write v (s.atPort p q) = (r.write v s).atPort p q := by
  cases r <;> rfl

/-- A list of register writes, in order. -/
def writeAll (ws : List (Reg × Word)) (s : State) : State := ws.foldl (fun u w => w.1.write w.2 u) s

theorem Runs.writes (ws : List (Reg × Word)) (s : State) : Runs (ws.map fun w => evWrite w.1 w.2) s (writeAll ws s) := by
  induction ws generalizing s with
  | nil => exact .nil s
  | cons w ws ih =>
    refine Runs.cons (fun rest => ⟨.none, ?_⟩) (ih (w.1.write w.2 s))
    simp only [evWrite, runEvent, writeRegister, regOf_number, if_neg w.1.number_ne_zero, Reg.write_atPort]

theorem Runs.ldvb {bs : List Byte} {off : Nat} (s : State) (h : off + bs.length ≤ Config.vbSize) :
    Runs (ldvb off bs) s { s with vb := Memory.setBytes s.vb off bs } := by
  induction bs generalizing off s with
  | nil => exact .nil s
  | cons b bs ih =>
    rw [List.length_cons] at h
    refine Runs.cons (fun rest => ⟨.none, ?_⟩) (ih { s with vb := Memory.set s.vb off b } (by omega))
    have hoff : (BitVec.ofNat 17 off).toNat = off := by
      rw [vbSize_eq] at h
      rw [BitVec.toNat_ofNat]
      omega
    simp only [runEvent, writeVb, hoff]
    rw [if_pos (by omega)]
    rfl

/-! ## A message in MB (R164, R188) -/

/-- In ENC mode, without an error, MB[0 .. CUR-1] is the message `b` and H_LEN its section length. -/
structure Encoding (b : List Byte) (s : State) : Prop where
  mode : s.mode = .enc
  err : s.err = 0
  cur : s.cur.toNat = b.length
  hLen : s.hLen = BitVec.ofNat 16 (b.length - 20)
  mb : ∀ i, (hi : i < b.length) → s.mbSpace i = b[i]
  header : 20 ≤ b.length

/-! ## The header -/

/-- Writes of the bytes of an identifier, in any order, change those bytes of H_TID and nothing else. -/
theorem writeAll_hTid (tid : Tid) (is : List (Fin 12)) (s : State) :
    ∃ t, writeAll (is.map fun i => (.hTid i, (tid.get i).setWidth 32)) s = { s with hTid := t } ∧
      ∀ j : Fin 12, t.get j = if j ∈ is then tid.get j else s.hTid.get j := by
  induction is generalizing s with
  | nil => exact ⟨s.hTid, rfl, fun j => by simp⟩
  | cons i is ih =>
    obtain ⟨t, ht, hget⟩ := ih ((Reg.hTid i).write ((tid.get i).setWidth 32) s)
    refine ⟨t, ht, fun j => ?_⟩
    rw [hget j]
    have hset : ((Reg.hTid i).write ((tid.get i).setWidth 32) s).hTid.get j =
        if j = i then tid.get j else s.hTid.get j := by
      simp only [Reg.write, setWidth_port (show 8 ≤ 32 by decide)]
      by_cases hij : j = i
      · subst hij; rw [if_pos rfl]; exact Vector.getElem_set_self _
      · rw [if_neg hij]; exact Vector.getElem_set_ne _ _ fun h => hij (Fin.ext h.symm)
    rw [hset]
    by_cases hij : j = i <;> by_cases hmem : j ∈ is <;> simp [hij, hmem]

theorem writeAll_append (ws ws' : List (Reg × Word)) (s : State) :
    writeAll (ws ++ ws') s = writeAll ws' (writeAll ws s) := List.foldl_append

/-- The register writes that load a header. -/
def headerWrites (c m : Half) (tid : Tid) : List (Reg × Word) :=
  [(.hClass, c.setWidth 32), (.hMethod, m.setWidth 32)] ++
    (List.finRange 12).map fun i => (.hTid i, (tid.get i).setWidth 32)

theorem headerWrites_events (c m : Half) (tid : Tid) :
    (headerWrites c m tid).map (fun w => evWrite w.1 w.2) =
      [evWrite .hClass (c.setWidth 32), evWrite .hMethod (m.setWidth 32)] ++ ldtid tid := by
  rw [headerWrites, List.map_append, List.map_map, ldtid, List.ofFn_eq_map]
  rfl

theorem writeAll_headerWrites (c m : Half) (tid : Tid) (s : State) :
    writeAll (headerWrites c m tid) s = { s with hClass := c, hMethod := m, hTid := tid } := by
  obtain ⟨t, ht, hget⟩ := writeAll_hTid tid (List.finRange 12) { s with hClass := c, hMethod := m }
  obtain rfl : t = tid := Vector.ext fun i hi => (hget ⟨i, hi⟩).trans (if_pos (List.mem_finRange _))
  rw [headerWrites, writeAll_append, ← ht]
  simp only [writeAll, List.foldl_cons, List.foldl_nil, Reg.write, setWidth_port (show 16 ≤ 32 by decide)]

theorem runs_hdrEnc {s : State} (h : LegalHeader s.hClass s.hMethod) :
    Runs [evCommand opHdrEnc] s (afterHdrEnc s).succeed :=
  Runs.command fun rest => exec_hdrEnc_legal (s := s.atPort rest .none) h

/-- HDR_ENC opens a message of no values (R136). -/
theorem encoding_afterHdrEnc (s : State) :
    Encoding (encodeHeader s.hClass s.hMethod 0 s.hTid) (afterHdrEnc s).succeed where
  mode := rfl
  err := rfl
  cur := by simp [afterHdrEnc]
  hLen := by simp [afterHdrEnc]
  mb i hi := by
    have hi' : i < 20 := by simpa using hi
    rw [State.succeed_mbSpace, afterHdrEnc_mbSpace, dif_pos hi']
  header := by simp

/-- The header part of the program, from any state (R136, R294). -/
theorem runs_header {c m : Half} (h : LegalHeader c m) (tid : Tid) (s : State) :
    ∃ t, Runs ([evWrite .hClass (c.setWidth 32), evWrite .hMethod (m.setWidth 32)] ++ ldtid tid ++ [evCommand opHdrEnc])
      s t ∧ Encoding (encodeHeader c m 0 tid) t := by
  obtain ⟨u, hload, rfl, rfl, rfl⟩ : ∃ u, Runs ([evWrite .hClass (c.setWidth 32), evWrite .hMethod (m.setWidth 32)] ++
      ldtid tid) s u ∧ u.hClass = c ∧ u.hMethod = m ∧ u.hTid = tid := by
    have hload := Runs.writes (headerWrites c m tid) s
    rw [headerWrites_events, writeAll_headerWrites] at hload
    exact ⟨_, hload, rfl, rfl, rfl⟩
  exact ⟨_, hload.append (runs_hdrEnc h), encoding_afterHdrEnc u⟩

/-! ## One value -/

/-- The value bytes depend on port and address, on the text for a Software, and on the bytes before the attribute. -/
theorem encodeValue_congr {k : Kind} {M M' V V' : Space} {o l : Nat} {r r' : AttrRecord} (hM : ∀ x, x < o → M x = M' x)
    (hV : k = .software → ∀ x, x < l → V x = V' x) (hport : r.port = r'.port) (haddr : r.addr = r'.addr) :
    (encodeValue k M V o l r).2 = (encodeValue k M' V' o l r').2 := by
  cases k with
  | generic => rfl
  | mapped => simp [encodeValue, hport, haddr]
  | xorMapped => simp [encodeValue, hport, haddr]
  | software => exact slice_congr fun i hi => by simpa using hV rfl i hi
  | fingerprint =>
    simp only [encodeValue, fingerprintAt, crc32_congr 0 o fun x _ hx => hM x hx]

/-- The operands of a value are loaded: the record's five operand registers, and the text in VB. -/
structure Loaded (a : AttrValue) (s : State) : Prop where
  typ : s.attr.typ = (recordOf a).typ
  len : s.attr.len = (recordOf a).len
  family : s.attr.family = (recordOf a).family
  port : s.attr.port = (recordOf a).port
  addr : s.attr.addr = (recordOf a).addr
  text : ∀ i, (hi : i < (textOf a).length) → s.vbSpace i = (textOf a)[i]

theorem valueLength_congr (k : Kind) {r r' : AttrRecord} (h : r.len = r'.len) : valueLength k r = valueLength k r' := by
  cases k <;> simp [valueLength, h]

theorem Loaded.valueLength_eq {a : AttrValue} {s : State} (h : Loaded a s) :
    valueLength (kindOf s.attr.typ) s.attr = valueSize a := by
  rw [h.typ, valueSize, valueLength_congr _ h.len]

/-- An encodable value has a defined type, and an address one family 1 (R162, R166). -/
theorem encodable_operands {a : AttrValue} (h : encodable a = true) :
    kindOf (recordOf a).typ ≠ .generic ∧
    ((recordOf a).typ = 0x0001#16 ∨ (recordOf a).typ = 0x0020#16 → (recordOf a).family = 1#8) ∧
    (kindOf (recordOf a).typ = .software → valueSize a = (textOf a).length) := by
  cases a with
  | mapped f p x =>
    exact ⟨by simp [recordOf, typeMappedAddress, kindOf_1], fun _ => (address_of_encodable h).1,
      by simp [recordOf, typeMappedAddress, kindOf_1]⟩
  | xorMapped f p x =>
    exact ⟨by simp [recordOf, typeXorMappedAddress, kindOf_20], fun _ => (address_of_encodable h).1,
      by simp [recordOf, typeXorMappedAddress, kindOf_20]⟩
  | software text =>
    exact ⟨by simp [recordOf, typeSoftware, kindOf_8022], by simp [recordOf, typeSoftware],
      fun _ => valueSize_software h⟩
  | fingerprint =>
    exact ⟨by simp [recordOf, typeFingerprint, kindOf_8028], by simp [recordOf, typeFingerprint],
      by simp [recordOf, typeFingerprint, kindOf_8028]⟩
  | generic t l => cases h

section Value

variable {a : AttrValue} {b : List Byte} {s : State}

/-- H_LEN once ATTR_ENC has added a value's on-wire size. -/
theorem Encoding.lengthened_hLen (h : Encoding b s) (hl : Loaded a s) :
    (lengthened (kindOf s.attr.typ) s).hLen = BitVec.ofNat 16 (b.length - 20 + wireSize (valueSize a)) := by
  rw [BitVec.ofNat_add, ← h.hLen, ← hl.valueLength_eq]
  rfl

/-- MB once ATTR_ENC has rewritten the length: the message with the new length (R164). -/
theorem Encoding.lengthened_mb (h : Encoding b s) (hl : Loaded a s) {i : Nat} (hi : i < b.length) :
    some ((lengthened (kindOf s.attr.typ) s).mbSpace i) = (relengthened b a)[i]? := by
  have h20 := h.header
  rw [lengthened_mbSpace]
  simp only [h.lengthened_hLen hl, beBytes_two_ofNat]
  by_cases h4 : 4 ≤ i
  · rw [if_neg (by omega), if_neg (by omega), getElem?_relengthened h20 a h4, h.mb i hi, List.getElem?_eq_getElem hi]
  · by_cases h2 : i < 2
    · rw [if_neg (by omega), if_neg (by omega), h.mb i hi, relengthened, setLength, List.append_assoc,
        List.getElem?_append_left (by simp; omega), List.getElem?_take_of_lt h2, List.getElem?_eq_getElem hi]
    · have hlen : (b.take 2).length = 2 := by simp; omega
      rw [relengthened, setLength, List.append_assoc, List.getElem?_append_right (by omega), hlen,
        List.getElem?_append_left (by simp; omega)]
      rcases (by omega : i = 2 ∨ i = 3) with rfl | rfl <;> rfl

/-- ATTR_ENC appends the value to the message (R165, R188). -/
theorem Encoding.appendAttr (h : Encoding b s) (hl : Loaded a s) (henc : encodable a = true)
    (hroom : b.length + wireSize (valueSize a) ≤ Config.mbSize) :
    Encoding (appendValue b a) (Machine.appendAttr (kindOf s.attr.typ) s).succeed := by
  have h20 := h.header
  have hlen := length_appendValue h20 a
  have hsize := hl.valueLength_eq
  obtain ⟨-, -, htext⟩ := encodable_operands henc
  rw [mbSize_eq] at hroom
  have hvalue : (encodeValue (kindOf s.attr.typ) (lengthened (kindOf s.attr.typ) s).mbSpace s.vbSpace s.cur.toNat
      (valueSize a) (startRecord (kindOf s.attr.typ) s)).2 =
      valueBytes (overlay (relengthened b a) (fun _ => 0)) b.length a := by
    rw [h.cur, valueBytes, ← hl.typ]
    refine encodeValue_congr (fun x hx => ?_) (fun hk x hx => ?_) hl.port hl.addr
    · rw [overlay, ← h.lengthened_mb hl hx]; rfl
    · rw [htext (hl.typ ▸ hk)] at hx
      rw [hl.text x hx, overlay_of_lt _ _ _ hx]
  refine ⟨h.mode, rfl, ?cur, ?hLen, fun i hi => ?mb, by omega⟩
  case cur =>
    rw [State.succeed_cur, appendAttr_cur, hsize, h.cur, hlen, BitVec.toNat_ofNat]
    omega
  case hLen =>
    rw [State.succeed_hLen, appendAttr_hLen, hsize, h.hLen, ← BitVec.ofNat_add, hlen]
    congr 1
    omega
  case mb =>
    refine Option.some.inj (Eq.trans ?_ (List.getElem?_eq_getElem hi))
    by_cases hlt : i < b.length
    · rw [State.succeed_mbSpace, appendAttr_mbSpace_below (by rwa [h.cur]), h.lengthened_mb hl hlt, appendValue_eq,
        List.getElem?_append_left (by rwa [length_relengthened h20])]
    · obtain ⟨j, rfl⟩ := Nat.exists_eq_add_of_le (Nat.not_lt.mp hlt)
      have hbyte := appendAttr_record_byte (kindOf s.attr.typ) s j (by rw [hsize]; omega)
      rw [h.cur] at hbyte
      rw [hbyte, ← List.getElem?_eq_getElem, getElem?_appendValue_record h20, ← hvalue, hsize, h.cur, hl.typ]

/-- The register writes that load a value's operands (R294). -/
def operandWrites (a : AttrValue) : List (Reg × Word) :=
  let r := recordOf a
  [(.aType, r.typ.setWidth 32), (.aLen, r.len.setWidth 32), (.aFamily, r.family.setWidth 32),
    (.aPort, r.port.setWidth 32), (.aAddr, r.addr)]

theorem appendProgram_eq (a : AttrValue) :
    appendProgram a = ldvb 0 (textOf a) ++ (operandWrites a).map (fun w => evWrite w.1 w.2) ++ [evCommand opAttrEnc] := by
  simp [appendProgram, operandWrites]

theorem writeAll_operandWrites (a : AttrValue) (s : State) :
    writeAll (operandWrites a) s = { s with attr := { s.attr with
      typ := (recordOf a).typ, len := (recordOf a).len, family := (recordOf a).family, port := (recordOf a).port
      addr := (recordOf a).addr } } := by
  simp only [writeAll, operandWrites, List.foldl_cons, List.foldl_nil, Reg.write, setWidth_port (show 16 ≤ 32 by decide),
    setWidth_port (show 8 ≤ 32 by decide)]

/-- The text of an encodable value fits VB (R187). -/
theorem length_textOf_le (h : encodable a = true) : (textOf a).length ≤ Config.vbSize := by
  cases a with
  | software text => exact of_decide_eq_true h
  | _ => exact Nat.zero_le _

/-- Loading a value leaves the message being built. -/
theorem Encoding.runs_load (h : Encoding b s) (henc : encodable a = true) :
    ∃ u, Runs (ldvb 0 (textOf a) ++ (operandWrites a).map fun w => evWrite w.1 w.2) s u ∧ Encoding b u ∧ Loaded a u := by
  have hvb := Runs.ldvb (bs := textOf a) (off := 0) s (by rw [Nat.zero_add]; exact length_textOf_le henc)
  have hregs := Runs.writes (operandWrites a) { s with vb := Memory.setBytes s.vb 0 (textOf a) }
  rw [writeAll_operandWrites] at hregs
  obtain ⟨hmode, herr, hcur, hlen, hmb, h20⟩ := h
  refine ⟨_, hvb.append hregs, ⟨hmode, herr, hcur, hlen, hmb, h20⟩, ⟨rfl, rfl, rfl, rfl, rfl, fun i hi => ?_⟩⟩
  exact (vbSpace_setBytes s 0 (textOf a) i).trans (dif_pos ⟨Nat.zero_le i, by rwa [Nat.zero_add]⟩)

/-- The program of one value appends it (R188). -/
theorem Encoding.runs_appendProgram (h : Encoding b s) (henc : encodable a = true)
    (hroom : (appendValue b a).length ≤ Config.mbSize) :
    ∃ t, Runs (appendProgram a) s t ∧ Encoding (appendValue b a) t := by
  rw [length_appendValue h.header] at hroom
  obtain ⟨u, hload, hu, hl⟩ := h.runs_load henc
  obtain ⟨hdef, hfam, -⟩ := encodable_operands henc
  have hcommand : Runs [evCommand opAttrEnc] u (Machine.appendAttr (kindOf u.attr.typ) u).succeed :=
    Runs.command fun rest => exec_attrEnc_appends (u.atPort rest .none) hu.mode
      (show kindOf u.attr.typ ≠ .generic by rwa [hl.typ])
      (show _ → u.attr.family = 1#8 by rw [hl.family]; exact fun ht => hfam (by rwa [← hl.typ]))
      (hu.cur.ge.trans' hu.header)
      (show u.cur.toNat + wireSize (valueLength (kindOf u.attr.typ) u.attr) ≤ Config.mbSize by
        rwa [hl.valueLength_eq, hu.cur])
  rw [appendProgram_eq]
  exact ⟨_, hload.append hcommand, hu.appendAttr hl henc hroom⟩

end Value

/-! ## The whole program -/

/-- The programs of the values append them one after another. -/
theorem Encoding.runs_appendPrograms {b : List Byte} {s : State} (h : Encoding b s) {as : List AttrValue}
    (henc : ∀ a ∈ as, encodable a = true) (hroom : (as.foldl appendValue b).length ≤ Config.mbSize) :
    ∃ t, Runs (as.flatMap appendProgram) s t ∧ Encoding (as.foldl appendValue b) t := by
  induction as generalizing b s with
  | nil => exact ⟨s, .nil s, h⟩
  | cons a as ih =>
    have hlen := length_appendValue h.header a
    obtain ⟨hfinal, -⟩ := length_foldl_appendValue (b := appendValue b a) (by have := h.header; omega) as
    rw [List.foldl_cons] at hroom
    obtain ⟨u, hfirst, hu⟩ := h.runs_appendProgram (henc a (by simp)) (by omega)
    obtain ⟨t, hrest, ht⟩ := ih hu (fun x hx => henc x (by simp [hx])) hroom
    exact ⟨t, hfirst.append hrest, ht⟩

/-- Settles O54: the header from any state, then value by value. -/
theorem encodeProgramProducesTheMessage : Obligations.EncodeProgramProducesTheMessage := by
  intro c m tid as s hlegal henc hroom
  obtain ⟨u, hheader, hu⟩ := runs_header hlegal tid s
  obtain ⟨t, hvalues, ht⟩ := hu.runs_appendPrograms henc hroom
  obtain ⟨q, hrun⟩ := (hheader.append hvalues) [] s.reply
  rw [List.append_nil] at hrun
  refine ⟨_, hrun, rfl, ht.err, ht.mode, ht.cur, List.ext_getElem ?_ fun i hi hi' => ?_⟩
  · rw [length_slice]; exact ht.cur
  · rw [getElem_slice, Nat.zero_add]; exact ht.mb i hi'

end Sys2Proof.Machine

/-! PROOF. The checksum family (43_checksum.md R212, R215 to R220): the CRC as a fold over the bytes of its range, the
table of the spec, and CRC_RUN. -/

namespace Sys2Proof.Machine

/-! ## The CRC over the bytes of its range (R214, R215) -/

/-- The CRC reads its range as a list of bytes, wherever it stands. -/
theorem crcFold_eq_foldl_slice (S : Space) (c : Word) (a n : Nat) :
    crcFold S c a n = (slice S a n).foldl crcStep c := by
  induction n generalizing c a with
  | zero => rfl
  | succ n ih => exact ih (crcStep c (S a)) (a + 1)

theorem crc32_eq_foldl_slice (S : Space) (a n : Nat) :
    crc32 S a (a + n) = (slice S a n).foldl crcStep 0xFFFFFFFF#32 ^^^ 0xFFFFFFFF#32 := by
  rw [crc32, Nat.add_sub_cancel_left, crcFold_eq_foldl_slice]

/-- The ASCII digits 1 to 9, the bytes of the second reference vector. -/
def asciiDigits : List Byte := [0x31, 0x32, 0x33, 0x34, 0x35, 0x36, 0x37, 0x38, 0x39]

theorem getElem_asciiDigits :
    ∀ k : Fin asciiDigits.length, asciiDigits[k] = BitVec.ofNat 8 (0x31 + k.val) := by decide

theorem slice_eq_asciiDigits {S : Space} {a : Nat} (h : ∀ k, k < 9 → S (a + k) = BitVec.ofNat 8 (0x31 + k)) :
    slice S a 9 = asciiDigits := by
  refine List.ext_getElem (length_slice S a 9) fun k hk hk' => ?_
  rw [getElem_slice, h k hk']
  exact (getElem_asciiDigits ⟨k, hk'⟩).symm

/-- Settles O48: an empty fold leaves the first complement to be undone; nine digits are one list wherever they lie. -/
theorem crcReferenceVectors : Obligations.CrcReferenceVectors := by
  refine fun S a => ⟨?empty, fun hdigits => ?digits⟩
  case empty => exact (crc32_eq_foldl_slice S a 0).trans BitVec.xor_self
  case digits =>
    rw [crc32_eq_foldl_slice, slice_eq_asciiDigits hdigits]
    decide +kernel

/-! ## A flipped bit, and the table (R220, R212) -/

/-- Settles O50: a flipped bit changes its byte, and a changed byte the CRC. -/
theorem crcDetectsEverySingleBit : Obligations.CrcDetectsEverySingleBit := by
  intro S T start stop i j hlo hhi hj hsame hflip
  exact crc32_ne_of_byte_ne hlo hhi hsame (by rw [hflip]; exact xor_two_pow_ne hj)

/-- Settles O47: the loop is run for each of the 256 indices. -/
theorem tableIsAsListed : Obligations.TableIsAsListed := by
  refine ⟨?length, ?entries⟩
  case length => decide +kernel
  case entries => decide +kernel

/-! ## CRC_RUN (R216, R217) -/

/-- The state CRC_RUN prepares (R216). -/
def afterCrcRun (s : State) : State :=
  { s with crcRes := crc32 s.mbSpace s.crcStart.toNat s.crcEnd.toNat }

theorem exec_crcRun_legal {s : State} (hle : s.crcStart.toNat ≤ s.crcEnd.toNat)
    (hfit : s.crcEnd.toNat ≤ Config.mbSize) : exec .crcRun s = .next (afterCrcRun s).succeed :=
  if_neg (not_or.mpr ⟨Nat.not_lt.mpr hle, Nat.not_lt.mpr hfit⟩)

theorem exec_crcRun_illegal {s : State} (h : s.crcEnd.toNat < s.crcStart.toNat ∨ Config.mbSize < s.crcEnd.toNat) :
    exec .crcRun s = .next (s.refusal opCrcRun .operand) :=
  if_pos h

theorem afterCrcRun_keepsRegs (s : State) : KeepsRegs [.status, .crcRes] s (afterCrcRun s).succeed := by
  intro r hr
  cases r with
  | status => simp at hr
  | crcRes => simp at hr
  | _ => rfl

/-- Settles O49: by whether the range is one that CRC_RUN refuses. -/
theorem crcRunComputesOrRefuses : Obligations.CrcRunComputesOrRefuses := by
  intro s
  by_cases hbad : s.crcEnd.toNat < s.crcStart.toNat ∨ Config.mbSize < s.crcEnd.toNat
  · exact ⟨_, exec_crcRun_illegal hbad, fun hle hfit => by omega, fun _ => refusal_refused _ _ _⟩
  · obtain ⟨hle, hfit⟩ := not_or.mp hbad
    exact ⟨_, exec_crcRun_legal (Nat.not_lt.mp hle) (Nat.not_lt.mp hfit),
      fun _ _ => ⟨⟨rfl, rfl⟩, rfl, rfl, afterCrcRun_keepsRegs s, ⟨fun _ => rfl, fun _ => rfl⟩, rfl, rfl, rfl, rfl⟩,
      fun h => absurd h hbad⟩

end Sys2Proof.Machine

/-! PROOF. The system and host family (44_system_and_host.md R231 to R248): the two resets, the system commands and the
undefined codes, and what each host operation returns, writes and leaves unchanged. -/

namespace Sys2Proof.Machine

/-! ## Reset (R232, R290) -/

/-- No register shows the buffers, the port or the model's own counters. -/
theorem Reg.read_congr_registers (r : Reg) (s : State) (mb vb : Memory) (port : List Event) (reply : Reply)
    (draws epoch : Nat) :
    r.read { s with mb := mb, vb := vb, port := port, reply := reply, draws := draws, epoch := epoch } = r.read s := by
  cases r <;> rfl

@[simp] theorem Reg.read_takeEvent (r : Reg) (rest : List Event) (s : State) : r.read (takeEvent rest s) = r.read s :=
  r.read_congr_registers s _ _ _ _ _ _

theorem Reg.read_reset (r : Reg) : r.read State.reset = 0#32 := Reg.read_clearRegisters State.reset r

theorem Reg.read_hardwareReset (r : Reg) (s : State) : r.read (hardwareReset s) = 0#32 :=
  (r.read_congr_registers s.clearRegisters _ _ _ _ _ _).trans (Reg.read_clearRegisters s r)

/-- Settles O8: the reset state, the state after the event and the state after RESET have the same registers. -/
theorem resetZeroesEveryRegister : Obligations.ResetZeroesEveryRegister := by
  refine ⟨Reg.read_reset, fun s rest => ?hardware, fun s => ?command⟩
  case hardware =>
    exact ⟨_, step_of_port_cons (s := { s with port := .hwReset :: rest }) rfl, fun r => r.read_hardwareReset _, rfl⟩
  case command =>
    exact ⟨s.clearRegisters, rfl, Reg.read_clearRegisters s, ⟨fun _ => rfl, fun _ => rfl⟩, rfl, rfl, rfl, rfl⟩

/-! ## NOP, CLR_ERR and MSG_END (R231, R233, R234) -/

/-- Settles O20: NOP is the successful end alone. -/
theorem nopClearsErrOnly : Obligations.NopClearsErrOnly := by
  intro s
  have hregs : KeepsRegs [.status] s s.succeed := fun r hr => Reg.read_succeed s r (mt List.mem_singleton.mpr hr)
  exact ⟨_, rfl, ⟨rfl, rfl⟩, rfl, hregs, ⟨fun _ => rfl, fun _ => rfl⟩, rfl, rfl, rfl, rfl⟩

/-- The state CLR_ERR prepares (R233). -/
def afterClrErr (s : State) : State := { s with firstCode := 0, firstOp := 0 }

theorem exec_clrErr (s : State) : exec .clrErr s = .next (afterClrErr s).succeed := rfl

theorem afterClrErr_keepsRegs (s : State) : KeepsRegs [.status, .firstErr] s (afterClrErr s).succeed := by
  intro r hr
  cases r with
  | status => simp at hr
  | firstErr => simp at hr
  | _ => rfl

/-- Settles O21: both parts of FIRSTERR are 0, and the end is a success. -/
theorem clrErrClearsTheErrorRecord : Obligations.ClrErrClearsTheErrorRecord := by
  intro s
  obtain ⟨herr, hfirst⟩ := exec_clears_errors (.inr rfl) (exec_clrErr s)
  exact ⟨_, exec_clrErr s, herr, hfirst, rfl, afterClrErr_keepsRegs s, ⟨fun _ => rfl, fun _ => rfl⟩, rfl, rfl, rfl, rfl⟩

theorem exec_msgEnd_idle {s : State} (h : s.mode = .idle) : exec .msgEnd s = .next (s.refusal opMsgEnd .seq) := by
  simp [exec, execMsgEnd, h]

theorem exec_msgEnd_enc {s : State} (h : s.mode = .enc) :
    exec .msgEnd s = .next (State.succeed { s with txLen := s.cur, mode := .idle }) := by
  simp [exec, execMsgEnd, h]

theorem exec_msgEnd_dec {s : State} (h : s.mode = .dec) :
    exec .msgEnd s = .next (State.succeed { s with mode := .idle }) := by
  simp [exec, execMsgEnd, h]

/-- MODE shows in STATUS alone. -/
theorem keepsRegs_sealed (s : State) : KeepsRegs [.status] s (State.succeed { s with mode := .idle }) := by
  intro r hr
  cases r with
  | status => simp at hr
  | _ => rfl

theorem keepsRegs_sealed_txLen (s : State) (n : Offset) :
    KeepsRegs [.status, .txLen] s (State.succeed { s with txLen := n, mode := .idle }) := by
  intro r hr
  cases r with
  | status => simp at hr
  | txLen => simp at hr
  | _ => rfl

/-- Settles O22: by MODE. -/
theorem msgEndSealsTheMessage : Obligations.MsgEndSealsTheMessage := by
  intro s
  cases hm : s.mode with
  | idle =>
    exact ⟨_, exec_msgEnd_idle hm, ⟨fun _ => rfl, fun _ => rfl⟩, ⟨rfl, rfl, rfl, rfl⟩, fun _ => refusal_refused _ _ _,
      nofun, nofun⟩
  | enc =>
    exact ⟨_, exec_msgEnd_enc hm, ⟨fun _ => rfl, fun _ => rfl⟩, ⟨rfl, rfl, rfl, rfl⟩, nofun,
      fun _ => ⟨⟨rfl, rfl⟩, rfl, rfl, keepsRegs_sealed_txLen s _⟩, nofun⟩
  | dec =>
    exact ⟨_, exec_msgEnd_dec hm, ⟨fun _ => rfl, fun _ => rfl⟩, ⟨rfl, rfl, rfl, rfl⟩, nofun, nofun,
      fun _ => ⟨⟨rfl, rfl⟩, rfl, keepsRegs_sealed s⟩⟩

/-! ## Undefined codes (R111, R235) -/

theorem exec_cmdUndefined (op : Byte) (s : State) : exec (.cmdUndefined op) s = .next (s.refusal op .opcode) := rfl

/-- A value whose low 8 bits stand in no row of R110 is the instruction of an undefined code. -/
theorem commandOf_of_no_row {v : Word} (h : v.setWidth 8 ∉ commandRows.map Prod.fst) :
    commandOf v = .cmdUndefined (v.setWidth 8) :=
  lookup_getD_default _ fun _ hr he => h (he ▸ List.mem_map_of_mem hr)

/-- Settles O23: the code is in no row of R110, and the instruction of an undefined code, well-formed or not (log entry
17), is a Refusal. -/
theorem undefinedCodesAreRefused : Obligations.UndefinedCodesAreRefused := by
  have hundefined : ∀ (op : Byte) (s : State), ∃ t, exec (.cmdUndefined op) s = .next t ∧ Refused op .opcode s t :=
    fun op s => ⟨_, exec_cmdUndefined op s, refusal_refused _ _ _⟩
  refine ⟨fun v s hv => ?_, hundefined⟩
  rw [commandOf_of_no_row hv]
  exact hundefined _ s

/-! ## Register writes (R241, R246 to R248) -/

/-- A write to any number but CMD's runs no instruction. -/
theorem runEvent_write_of_ne {n : Byte} (hn : n ≠ 0x00#8) (v : Word) (s : State) :
    runEvent (.wr n v) s = .next (writeRegister n v s) := if_neg hn

theorem writeRegister_number (r : Reg) (v : Word) (s : State) : writeRegister r.number v s = r.write v s := by
  simp only [writeRegister, regOf_number]

theorem writeRegister_of_none {n : Byte} (h : regOf n = none) (v : Word) (s : State) : writeRegister n v s = s := by
  simp only [writeRegister, h]

/-- R246: an RW register holds the low bits of the data. -/
theorem Reg.read_write_self {r : Reg} (h : r.writable = true) (v : Word) (s : State) :
    r.read (r.write v s) = (v.setWidth r.width).setWidth 32 := by
  cases r with
  | hTid i => exact congrArg (BitVec.setWidth 32) (Vector.getElem_set_self i.isLt)
  | expTid i => exact congrArg (BitVec.setWidth 32) (Vector.getElem_set_self i.isLt)
  | aAddr => simp [Reg.read, Reg.write, Reg.width]
  | ctrl | rxLen | hClass | hMethod | aType | aLen | aFamily | aPort | crcStart | crcEnd => rfl
  | _ => cases h

/-- A register write reaches one register, of the identifiers one byte. Apart from those, two names are one register
(which `hne` excludes) or two fields. -/
theorem Reg.read_write_of_ne {r r' : Reg} (hne : r' ≠ r) (v : Word) (s : State) :
    r'.read (r.write v s) = r'.read s := by
  cases r with
  | hTid i =>
    cases r' with
    | hTid j =>
      have hij : i.val ≠ j.val := fun h => hne (congrArg Reg.hTid (Fin.ext h.symm))
      exact congrArg (BitVec.setWidth 32) (Vector.getElem_set_ne i.isLt j.isLt hij)
    | _ => rfl
  | expTid i =>
    cases r' with
    | expTid j =>
      have hij : i.val ≠ j.val := fun h => hne (congrArg Reg.expTid (Fin.ext h.symm))
      exact congrArg (BitVec.setWidth 32) (Vector.getElem_set_ne i.isLt j.isLt hij)
    | _ => rfl
  | _ => cases r' <;> first | exact absurd rfl hne | rfl

/-- A register write leaves all but the registers. -/
theorem Reg.write_frame (r : Reg) (v : Word) (s : State) :
    KeepsBuffers s (r.write v s) ∧ KeepsPort s (r.write v s) := by
  cases r <;> exact ⟨⟨fun _ => rfl, fun _ => rfl⟩, rfl, rfl, rfl, rfl⟩

theorem Reg.width_le (r : Reg) : r.width ≤ 32 := by cases r <;> simp [Reg.width]

/-- Settles O57: the write reaches the register the number names, which reads its low bits. -/
theorem registerWritesStoreTheirWidth : Obligations.RegisterWritesStoreTheirWidth := by
  intro r v s rest hw hp
  obtain ⟨hbuffers, hport, -, hdraws, hepoch⟩ := r.write_frame v (takeEvent rest s)
  refine ⟨r.write v (takeEvent rest s), ?step, ?value, fun r' hr => ?others, hbuffers, hport, hdraws, hepoch⟩
  case step => rw [step_of_port_cons hp, runEvent_write_of_ne r.number_ne_zero, writeRegister_number]
  case value =>
    rw [Reg.read_write_self hw, BitVec.toNat_setWidth_of_le r.width_le, BitVec.toNat_setWidth]
  case others => rw [Reg.read_write_of_ne (mt List.mem_singleton.mpr hr), Reg.read_takeEvent]

/-! ## Reads, and writes that reach no register (R242, R244, R247, R248) -/

theorem readRegister_number (r : Reg) (s : State) : readRegister r.number s = r.read s := by
  simp only [readRegister, regOf_number]

theorem readRegister_of_none {n : Byte} (h : regOf n = none) (s : State) : readRegister n s = 0#32 := by
  simp [readRegister, h]

/-- A read of a number that names no register, CMD's among them, returns 0. -/
theorem step_read_of_none {n : Byte} {s : State} {rest : List Event} (h : regOf n = none)
    (hp : s.port = .rd n :: rest) : step s = .next { s with port := rest, reply := .reg 0#32 } := by
  rw [step_of_port_cons hp, runEvent, readRegister_of_none h]
  rfl

/-- The registers whose access in R22 is read-only. -/
def readOnlyRegs : List Reg :=
  [.status, .firstErr, .txLen, .cur, .endOff, .hLen, .aKind, .aAddrLen, .aXport, .aXaddr, .aFp, .aVoff, .aOff, .crcRes]

theorem mem_readOnlyRegs_iff (r : Reg) : r ∈ readOnlyRegs ↔ r.writable = false := by
  cases r <;> simp [readOnlyRegs, Reg.writable]

/-- R247. -/
theorem Reg.write_of_not_writable {r : Reg} (h : r.writable = false) (v : Word) (s : State) : r.write v s = s := by
  cases r with
  | status | firstErr | txLen | cur | endOff | hLen => rfl
  | aKind | aAddrLen | aXport | aXaddr | aFp | aVoff | aOff | crcRes => rfl
  | _ => cases h

theorem ne_zero_of_undefinedNumber {n : Byte} (h : UndefinedNumber n) : n ≠ 0x00#8 := by
  rintro rfl
  exact absurd h (by decide)

/-- Settles O58: the number names a register that no write reaches, or none. -/
theorem otherRegisterWritesHaveNoEffect : Obligations.OtherRegisterWritesHaveNoEffect := by
  refine fun n v s rest => ⟨fun hn hp => ?write, fun hn hp => ?read⟩
  case write =>
    rw [step_of_port_cons hp]
    rcases hn with hmem | hundef
    · obtain ⟨r, hr, rfl⟩ := List.mem_map.mp (show n ∈ readOnlyRegs.map Reg.number from hmem)
      rw [runEvent_write_of_ne r.number_ne_zero, writeRegister_number,
        Reg.write_of_not_writable ((mem_readOnlyRegs_iff r).mp hr)]
      rfl
    · rw [runEvent_write_of_ne (ne_zero_of_undefinedNumber hundef),
        writeRegister_of_none ((regOf_eq_none_iff n).mpr (.inr hundef))]
      rfl
  case read => exact step_read_of_none ((regOf_eq_none_iff n).mpr (.inr hn)) hp

/-- Settles O59: a number is a register's or names none; a byte's read is the event itself. -/
theorem readsReturnAndChangeNothing : Obligations.ReadsReturnAndChangeNothing := by
  refine ⟨fun r s rest hp => ?register, fun n s rest hn hp => ?none, fun off s rest hp => ?mb, fun off s rest hp => ?vb⟩
  case register =>
    rw [step_of_port_cons hp, runEvent, readRegister_number, Reg.read_takeEvent]
    rfl
  case none => exact step_read_of_none ((regOf_eq_none_iff n).mpr hn) hp
  case mb => exact step_of_port_cons hp
  case vb => exact step_of_port_cons hp

/-! ## Byte writes (R243, R245) -/

theorem writeMb_of_lt {off : Offset} (h : off.toNat < Config.mbSize) (b : Byte) (s : State) :
    writeMb off b s = { s with mb := Memory.set s.mb off.toNat b } := if_pos h

theorem writeMb_of_ge {off : Offset} (h : Config.mbSize ≤ off.toNat) (b : Byte) (s : State) : writeMb off b s = s :=
  if_neg (Nat.not_lt.mpr h)

theorem writeVb_of_lt {off : Offset} (h : off.toNat < Config.vbSize) (b : Byte) (s : State) :
    writeVb off b s = { s with vb := Memory.set s.vb off.toNat b } := if_pos h

theorem writeVb_of_ge {off : Offset} (h : Config.vbSize ≤ off.toNat) (b : Byte) (s : State) : writeVb off b s = s :=
  if_neg (Nat.not_lt.mpr h)

theorem writeMb_mbSpace_self {off : Offset} (h : off.toNat < Config.mbSize) (b : Byte) (s : State) :
    (writeMb off b s).mbSpace off.toNat = b := by
  simp [writeMb_of_lt h, State.mbSpace, Memory.get?_set]

theorem writeVb_vbSpace_self {off : Offset} (h : off.toNat < Config.vbSize) (b : Byte) (s : State) :
    (writeVb off b s).vbSpace off.toNat = b := by
  simp [writeVb_of_lt h, State.vbSpace, Memory.get?_set]

/-- VB after `WV`, at another offset (R245). -/
theorem writeVb_vbSpace_ne {off : Offset} {a : Nat} (ha : off.toNat ≠ a) (b : Byte) (s : State) :
    (writeVb off b s).vbSpace a = s.vbSpace a := by
  rcases Nat.lt_or_ge off.toNat Config.vbSize with h | h
  · simp [writeVb_of_lt h, State.vbSpace, Memory.get?_set, Ne.symm ha]
  · rw [writeVb_of_ge h]

/-- No register and no byte of VB changes by `WB`. -/
theorem writeMb_frame (off : Offset) (b : Byte) (s : State) :
    (∀ r : Reg, r.read (writeMb off b s) = r.read s) ∧ (writeMb off b s).vbSpace = s.vbSpace := by
  rcases Nat.lt_or_ge off.toNat Config.mbSize with h | h
  · rw [writeMb_of_lt h]
    exact ⟨fun r => r.read_congr_registers s _ _ _ _ _ _, rfl⟩
  · rw [writeMb_of_ge h]
    exact ⟨fun _ => rfl, rfl⟩

/-- No register and no byte of MB changes by `WV`. -/
theorem writeVb_frame (off : Offset) (b : Byte) (s : State) :
    (∀ r : Reg, r.read (writeVb off b s) = r.read s) ∧ (writeVb off b s).mbSpace = s.mbSpace := by
  rcases Nat.lt_or_ge off.toNat Config.vbSize with h | h
  · rw [writeVb_of_lt h]
    exact ⟨fun r => r.read_congr_registers s _ _ _ _ _ _, rfl⟩
  · rw [writeVb_of_ge h]
    exact ⟨fun _ => rfl, rfl⟩

/-- Settles O60: the written offset reads the byte where the buffer has it; everywhere else, and beyond the size
altogether, the space is as before. -/
theorem byteWritesStoreOneByte : Obligations.ByteWritesStoreOneByte := by
  refine fun off b s rest => ⟨fun hp => ?mb, fun hp => ?vb⟩
  case mb =>
    obtain ⟨hregs, hvb⟩ := writeMb_frame off b (takeEvent rest s)
    refine ⟨_, step_of_port_cons hp, fun r => (hregs r).trans (r.read_takeEvent rest s),
      fun h => writeMb_mbSpace_self h b _, fun a ha => ?_, fun a => congrFun hvb a⟩
    rcases ha with hne | hbeyond
    · exact writeMb_mbSpace_ne hne.symm b _
    · rw [writeMb_of_ge hbeyond, takeEvent_mbSpace]
  case vb =>
    obtain ⟨hregs, hmb⟩ := writeVb_frame off b (takeEvent rest s)
    refine ⟨_, step_of_port_cons hp, fun r => (hregs r).trans (r.read_takeEvent rest s),
      fun h => writeVb_vbSpace_self h b _, fun a ha => ?_, fun a => congrFun hmb a⟩
    rcases ha with hne | hbeyond
    · exact writeVb_vbSpace_ne hne.symm b _
    · rw [writeVb_of_ge hbeyond, takeEvent_vbSpace]

end Sys2Proof.Machine

/-! PROOF. The exceptions family (60_exceptions.md): a code of 8 or more comes from the Refusal entry alone (R260, R267);
where the invariant places cursor and section, every command, hence every event, answers a next state (R269). -/

namespace Sys2Proof.Machine

/-! ## Refusals (R260, R267) -/

/-- A success leaves code 0 and a ParseError one below 8, so a code of 8 or more is a Refusal's, ill-formed terms
included. -/
theorem exec_refused_of_code {i : Instr} {s t : State} (hx : exec i s = .next t) (h8 : 8 ≤ t.err.toNat) :
    ∃ e, Refused (commandCode i) e s t := by
  have hne : t.err ≠ 0#8 := fun h0 => by simp [h0] at h8
  rcases exec_error_cases hx with hi | hi | ⟨u, rfl, -⟩ | ⟨u, e, rfl, -, -, hlt⟩ | ⟨e, rfl⟩
  · exact absurd (exec_clears_errors (.inl hi) hx).1 hne
  · exact absurd (exec_clears_errors (.inr hi) hx).1 hne
  · exact absurd u.succeed_err hne
  · rw [State.parseError_err] at h8
    exact absurd hlt h8.not_gt
  · exact ⟨e, refusal_refused _ _ _⟩

/-- Settles O16: the command ended with a Refusal, under the code that was written to CMD. -/
theorem refusalsChangeNothing : Obligations.RefusalsChangeNothing := by
  intro op s t hx h8
  obtain ⟨e, href⟩ := exec_refused_of_code hx h8
  rw [commandCode_decodeCmd] at href
  exact ⟨e, href⟩

/-! ## Commands that never stop -/

theorem execMsgEnd_next (s : State) : ∃ t, execMsgEnd s = .next t := by
  unfold execMsgEnd
  split <;> exact ⟨_, rfl⟩

theorem execHdrBuild_next (s : State) : ∃ t, execHdrBuild s = .next t := by
  unfold execHdrBuild
  split
  · exact ⟨_, rfl⟩
  · split <;> exact ⟨_, rfl⟩

theorem execHdrEnc_next (s : State) : ∃ t, execHdrEnc s = .next t := by
  unfold execHdrEnc
  split <;> exact ⟨_, rfl⟩

theorem execCrcRun_next (s : State) : ∃ t, execCrcRun s = .next t := by
  unfold execCrcRun
  split <;> exact ⟨_, rfl⟩

/-! ## No fault where the invariant places cursor and section (R12, R33) -/

/-- ATTR_ENC faults in ENC mode only, with the cursor inside the header. -/
theorem execAttrEnc_next {s : State} (h : s.mode = .enc → 20 ≤ s.cur.toNat) : ∃ t, execAttrEnc s = .next t := by
  unfold execAttrEnc
  simp only
  split
  · exact ⟨_, rfl⟩
  next hmode =>
  rw [if_neg (h (not_not.mp hmode)).not_gt]
  split
  · exact ⟨_, rfl⟩
  · split
    · exact ⟨_, rfl⟩
    · split <;> exact ⟨_, rfl⟩

theorem State.Inv.cursor_of_enc {s : State} (h : s.Inv) (hmode : s.mode = .enc) : 20 ≤ s.cur.toNat :=
  (h.cursor (by simp [hmode])).1

/-- Cursor and END are both a multiple of 4 past the header, so a cursor below END has a whole attribute header before
it. -/
theorem State.Inv.section_of_dec {s : State} (h : s.Inv) (hmode : s.mode = .dec) (hlt : s.cur.toNat < s.endOff.toNat) :
    20 ≤ s.cur.toNat ∧ s.cur.toNat + 4 ≤ Config.mbSize ∧ s.endOff.toNat ≤ Config.mbSize := by
  obtain ⟨hlo, -, hal⟩ := h.cursor (by simp [hmode])
  obtain ⟨-, hend, heq⟩ := h.decEnd hmode
  have hlen := h.hLen
  exact ⟨hlo, by omega, hend⟩

/-- Every instruction, ill-formed terms included, answers a next state from a state of the invariant. -/
theorem exec_next_of_inv {s : State} (h : s.Inv) (i : Instr) : ∃ t, exec i s = .next t := by
  rcases instr_cases_any i s with
    rfl | rfl | rfl | rfl | rfl | rfl | rfl | rfl | ⟨op, rfl⟩ | ⟨-, mt, he⟩ | ⟨-, ty, k, he⟩
  · exact ⟨_, rfl⟩
  · exact ⟨_, rfl⟩
  · exact ⟨_, rfl⟩
  · exact execMsgEnd_next s
  · exact execHdrBuild_next s
  · exact execHdrEnc_next s
  · exact execAttrEnc_next h.cursor_of_enc
  · exact execCrcRun_next s
  · exact ⟨_, rfl⟩
  · rw [he]
    exact hdrDecode_next mt s
  · rw [he]
    exact attrDecode_next h.section_of_dec

/-- Every event answers a next state: a write to CMD by the command it runs, any other by itself (R240). -/
theorem runEvent_next_of_inv {s : State} (h : s.Inv) (e : Event) : ∃ t, runEvent e s = .next t := by
  cases e with
  | wr n v =>
    simp only [runEvent]
    split
    · exact exec_next_of_inv h _
    · exact ⟨_, rfl⟩
  | rd n => exact ⟨_, rfl⟩
  | wb off b => exact ⟨_, rfl⟩
  | rb off => exact ⟨_, rfl⟩
  | wv off b => exact ⟨_, rfl⟩
  | rv off => exact ⟨_, rfl⟩
  | hwReset => exact ⟨_, rfl⟩

/-- Settles O12: by the oldest event, which is applied to a state that still meets the invariant. -/
theorem noStepStopsUnderTheInvariant : Obligations.NoStepStopsUnderTheInvariant := by
  intro s h
  cases hp : s.port with
  | nil => exact ⟨s, step_of_port_nil hp⟩
  | cons e rest =>
    rw [step_of_port_cons hp]
    exact runEvent_next_of_inv (h.takeEvent rest) e

end Sys2Proof.Machine

/-! PROOF. The reset and hazards family (70_reset_and_hazards.md): what a hardware reset leaves in the buffers (R291), and
that a machine whose step never leaves its invariant runs from reset for as long as the host likes (R294). -/

namespace Sys2Proof.Machine

/-- Settles O9: the event is the hardware reset, whose buffers list no written byte. -/
theorem hardwareResetLeavesTheBuffersUnspecified : Obligations.HardwareResetLeavesTheBuffersUnspecified := by
  intro s rest
  exact ⟨_, step_of_port_cons (s := { s with port := .hwReset :: rest }) rfl,
    hardwareReset_mbSpace _, hardwareReset_vbSpace _, hardwareReset_epoch _, hardwareReset_draws _⟩

/-- Where every step from a state of `p` answers a state of `p`, so does every run. -/
theorem run_next_of_step_next {M : Host.Core} {p : M.State → Prop}
    (hstep : ∀ s, p s → ∃ t, M.step s = .next t ∧ p t) (k : Nat) {s : M.State} (hs : p s) :
    ∃ t, M.run k s = .next t ∧ p t := by
  induction k generalizing s with
  | zero => exact ⟨s, rfl, hs⟩
  | succ k ih =>
    obtain ⟨u, hu, hp⟩ := hstep s hs
    rw [run_of_step hu]
    exact ih hp

/-- From a state of the invariant a step answers a next state, which meets it too (R269). -/
theorem step_next_inv (s : State) (h : s.Inv) : ∃ t, step s = .next t ∧ t.Inv := by
  obtain ⟨t, ht⟩ := noStepStopsUnderTheInvariant s h
  exact ⟨t, ht, everyStepKeepsTheInvariant s t h ht⟩

/-- The invariant asks nothing of the pending events, so a machine just reset meets it with any host program. -/
theorem startWith_inv (program : List Event) : (startWith program).Inv := { resetMeetsTheInvariant with }

/-- Settles O13: by induction over the steps; each goes on and keeps the invariant, which holds at the start. -/
theorem everyHostProgramRuns : Obligations.EveryHostProgramRuns := by
  intro program k
  exact run_next_of_step_next (M := Sys2Proof.core) step_next_inv k (startWith_inv program)

end Sys2Proof.Machine
